-- ==== Sys2Proof/Word.lean ====
section
/-! DEFINITION. The word types of the machine (spec/00_scope.md R5, R8): every value is an unsigned number of a fixed
width, bit 0 the least significant. -/

namespace Sys2Proof

/-- DATA_WIDTH = 8 bits: ACC, B, IR, OUT and a memory byte (R5). -/
abbrev Byte := BitVec 8

/-- ADDR_WIDTH = 4 bits: AR, an instruction's operand, a memory address (R5). -/
abbrev Addr := BitVec 4

/-- OPCODE_WIDTH = 4 bits (R5). -/
abbrev Opcode := BitVec 4

/-- PC_WIDTH = 5 bits, reachable values 0 to 16 (R5, R14, D1). -/
abbrev PcWord := BitVec 5

/-- A memory image: exactly 16 bytes (R10, R102: "an image of another length cannot be given"). -/
abbrev Image := Vector Byte 16

end Sys2Proof
end

