-- ==== Sys2Proof/Syntax.lean ====
section
/-! DEFINITION. The instructions (spec/30_encoding.md R44), and the names the assembly text uses (R49, R50, R64). -/

namespace Sys2Proof

/-- The five instructions, one constructor per row of spec/opcode_table.json. CAR, SOM and SUB carry a raw 4-bit absolute
address (R42). SAI and PAR carry nothing: their four operand bits are "none (ignored)" and have no effect (R42, R47). -/
inductive Instr where
  | car (a : Addr)
  | som (a : Addr)
  | sub (a : Addr)
  | sai
  | par
  deriving DecidableEq, Repr

/-- The first tokens the assembler knows: the two directives (R50) and the five mnemonics (R59). -/
inductive Keyword where
  | org
  | db
  | car
  | som
  | sub
  | sai
  | par
  deriving DecidableEq, Repr

/-- The eight kinds of assembly error (R64). -/
inductive AsmErrorKind where
  | unknownMnemonic
  | missingOperand
  | unexpectedOperand
  | operandOutOfRange
  | invalidDbValue
  | dbWithoutOrg
  | memoryOverflow
  | malformedNumber
  deriving DecidableEq, Repr

/-- The one error of a failed assembly: the 1-based source line and the kind (R53, R64). -/
structure AsmError where
  line : Nat
  kind : AsmErrorKind
  deriving DecidableEq, Repr

end Sys2Proof
end

