-- ==== Sys2Proof/Decode.lean ====
section
/-! DEFINITION. The instruction format, the decoder and the encoder (spec/30_encoding.md R41 to R48), with the bit-field
helpers they use. -/

namespace Sys2Proof

/-- opcode = IR[7:4] (R41). -/
def opcodeOf (ir : Byte) : Opcode := ir.extractLsb' 4 4

/-- operand = IR[3:0] (R41). -/
def operandOf (ir : Byte) : Addr := ir.extractLsb' 0 4

/-- The byte {opcode, operand} = (opcode << 4) | operand (R41). -/
def joinNibbles (op : Opcode) (a : Addr) : Byte := op ++ a

/-- What the decoder answers (R45): an instruction, or INVALID with the opcode it rejects. -/
inductive Decoded where
  | instr (i : Instr)
  | invalid (op : Opcode)
  deriving DecidableEq, Repr

/-- The decoder, a total function of the 8-bit IR (R45). The 11 opcodes 0x3 to 0xD are rejected by name, whatever the
operand (R46, which counts them as 13; log entry 12). The operand of SAI and PAR is ignored (R47). -/
def decode (ir : Byte) : Decoded :=
  if opcodeOf ir = 0x0#4 then .instr (.car (operandOf ir))
  else if opcodeOf ir = 0x1#4 then .instr (.som (operandOf ir))
  else if opcodeOf ir = 0x2#4 then .instr (.sub (operandOf ir))
  else if opcodeOf ir = 0xE#4 then .instr .sai
  else if opcodeOf ir = 0xF#4 then .instr .par
  else .invalid (opcodeOf ir)

/-- The opcode of each instruction (R44). -/
def opcodeFor : Instr → Opcode
  | .car _ => 0x0#4
  | .som _ => 0x1#4
  | .sub _ => 0x2#4
  | .sai => 0xE#4
  | .par => 0xF#4

/-- The operand bits the encoder writes: the address, and 0 for SAI and PAR (R48). -/
def operandFor : Instr → Addr
  | .car a => a
  | .som a => a
  | .sub a => a
  | .sai => 0x0#4
  | .par => 0x0#4

/-- The encoder (R48): (opcode << 4) | a, and opcode << 4 for SAI and PAR. -/
def encode (i : Instr) : Byte := joinNibbles (opcodeFor i) (operandFor i)

/-- The instruction the decoder reads from a word numbered as spec/opcode_table.json numbers it. Every instruction is one
byte (R43), so a word of another size is no instruction of this hardware. -/
def decodeTableWord (nbits w : Nat) : Option Instr :=
  if nbits = 8 ∧ w < 256 then
    match decode (BitVec.ofNat 8 w) with
    | .instr i => some i
    | .invalid _ => none
  else none

end Sys2Proof
end

