-- ==== Sys2Proof/Machine/State.lean ====
section
/-! DEFINITION. The state of the machine (spec/10_state.md R12), the reasons a step can stop, and the state right after
reset (R25). -/

namespace Sys2Proof.Machine

/-- STATUS, the 2-bit latch of the last STEP's outcome (R22, D3). Its codes are given by Status.code. -/
inductive Status where
  | ready
  | halted
  | faultInvalidOpcode
  | faultPcOverflow
  deriving DecidableEq, Repr

/-- The 16-byte memory M (R23) as a list of (address, byte) cells in one canonical form, Memory.wf. -/
abbrev Memory := List Host.Cell

/-- The architectural state (R12: "exactly the following"), and one field of the model's own. -/
structure State where
  /-- PC: address of the next instruction byte; 16 after the instruction at 15 (R14). -/
  pc : PcWord
  /-- ACC, the one arithmetic register (R15). -/
  acc : Byte
  /-- AR, the last resolved memory address (R16). -/
  ar : Addr
  /-- IR, the last fetched byte (R17). -/
  ir : Byte
  /-- B, the second ALU operand (R18). -/
  b : Byte
  /-- OUT, the output latch (R19). -/
  out : Byte
  /-- Z, an inert flag (R20, R21). -/
  z : BitVec 1
  /-- C, an inert flag (R20, R21). -/
  c : BitVec 1
  /-- STATUS (R22). -/
  status : Status
  /-- M[0..15] (R23). -/
  mem : Memory
  /-- THE MODEL'S OWN: a RESET has been given since power-on. It exists to say R26 ("A model should treat a STEP before the
  first RESET as refused"); no instruction reads or writes it (DESIGN CHOICE, safe; log entry 2). -/
  resetSeen : Bool
  deriving DecidableEq, Repr

/-- The execution errors (R85 to R88), the error half of RUN's result (R105). The step function answers none of them as a
fault of the host's interface: the spec gives the state that each leaves, with STATUS latched, so the step answers that
next state, and State.stepOutcome and RUN report the error (log entry 5). -/
inductive Fault where
  /-- ExecutionError::InvalidOpcode(value): raised by a STEP that fetches a byte whose opcode is 0x3 to 0xD (R86). Safe:
  reported by RUN as the spec says, never a stop of the step function. -/
  | invalidOpcode (op : Opcode)
  /-- ExecutionError::ProgramCounterOverflow: raised by a STEP that begins with PC >= 16 (R87). Safe: at the level of STEP
  only; RUN maps it to a halt reason (C4). -/
  | programCounterOverflow
  deriving DecidableEq, Repr

/-- Why the model gives a step no meaning. -/
inductive Refusal where
  /-- An instruction with no meaning yet; raised by exec's refused arms only (there are none). Safe. -/
  | notModelled (mnemonic : String)
  /-- A STEP before the first RESET: "A model should treat a STEP before the first RESET as refused" (R26, D5). Raised by
  step. Safe: nothing is claimed of such a STEP. -/
  | stepBeforeReset
  deriving DecidableEq, Repr

/-- What the spec leaves unspecified at power-on: the registers, STATUS and POWER_ON_MEMORY (R26, D5). -/
structure PowerOn where
  pc : PcWord
  acc : Byte
  ar : Addr
  ir : Byte
  b : Byte
  out : Byte
  status : Status
  memory : Image
  deriving DecidableEq, Repr

/-- The machine right after RESET: every register 0, STATUS READY (R25). RESET leaves memory unchanged, so this constant
needs a memory: nothing listed, which reads as 0x00 (DESIGN CHOICE, unsafe; log entry 1). -/
def State.reset : State where
  pc := 0
  acc := 0
  ar := 0
  ir := 0
  b := 0
  out := 0
  z := 0
  c := 0
  status := .ready
  mem := []
  resetSeen := true

end Sys2Proof.Machine
end

