-- ==== Sys2Proof/Machine/Ops.lean ====
section
/-! DEFINITION. The shared operations over memory and registers (spec/20_memory.md, spec/00_scope.md R9), the fetch
sub-steps (spec/40_instruction_cycle.md R71 to R73), taking a terminal outcome and the RESET that leaves it
(spec/60_exceptions.md), LOAD and power-on. -/

namespace Sys2Proof.Machine

/-! ### Memory -/

/-- What an address that no cell lists reads as: 0x00 (DESIGN CHOICE for State.reset's memory, unsafe; log entry 1). Any 16
bytes can be held, so for every other memory this is only the form of the list. -/
def unlistedByte : Byte := 0x00#8

/-- From address lo on: addresses strictly rising and below 16, and no cell holds the unlisted byte. -/
def Memory.wfFrom : Nat → Memory → Bool
  | _, [] => true
  | lo, (a, v) :: m => decide (lo ≤ a) && decide (a < 16) && decide (v ≠ unlistedByte) && Memory.wfFrom (a + 1) m

/-- The canonical form of a memory: equal memories are equal lists. -/
def Memory.wf (m : Memory) : Bool := Memory.wfFrom 0 m

/-- The byte at a numeric address. -/
def Memory.byteAt : Memory → Nat → Byte
  | [], _ => unlistedByte
  | (k, v) :: m, a => if k = a then v else Memory.byteAt m a

/-- MemRead(addr, 1): the byte M[addr]; no side effect, always succeeds (R28). -/
def Memory.read (m : Memory) (a : Addr) : Byte := Memory.byteAt m a.toNat

/-- The cells of a list of bytes that stand at addresses from lo on. -/
def Memory.cellsFrom : Nat → List Byte → Memory
  | _, [] => []
  | lo, v :: vs =>
    if v = unlistedByte then Memory.cellsFrom (lo + 1) vs
    else (lo, v) :: Memory.cellsFrom (lo + 1) vs

/-- MemLoad(image): image byte i is memory byte M[i], for all 16 (R29, R31). -/
def Memory.ofImage (img : Image) : Memory := Memory.cellsFrom 0 img.toList

/-- The 16 bytes of M (R11). -/
def Memory.toImage (m : Memory) : Image := Vector.ofFn fun i => Memory.byteAt m i.val

/-! ### Register writes: REG <- v (R9) -/

def State.setPc (s : State) (v : PcWord) : State := { s with pc := v }
def State.setAcc (s : State) (v : Byte) : State := { s with acc := v }
def State.setAr (s : State) (v : Addr) : State := { s with ar := v }
def State.setIr (s : State) (v : Byte) : State := { s with ir := v }
def State.setB (s : State) (v : Byte) : State := { s with b := v }
def State.setOut (s : State) (v : Byte) : State := { s with out := v }
def State.setStatus (s : State) (v : Status) : State := { s with status := v }
def State.setMem (s : State) (m : Memory) : State := { s with mem := m }

/-- Every memory read the core makes is at AR (R16, R28): M[AR]. -/
def State.memAtAr (s : State) : Byte := s.mem.read s.ar

/-- PC[3:0] (R71). -/
def State.pcAddr (s : State) : Addr := s.pc.extractLsb' 0 4

/-! ### Fetch -/

/-- Fetch sub-step 1: AR <- PC[3:0] (R71). -/
def fetchAddress (s : State) : State := s.setAr s.pcAddr

/-- Fetch sub-step 2: PC <- PC + 1; from 15 it becomes 16 and never wraps to 0 (R72). -/
def fetchIncrement (s : State) : State := s.setPc (s.pc + 1#5)

/-- Fetch sub-step 3: IR <- M[AR] (R73). -/
def fetchByte (s : State) : State := s.setIr s.memAtAr

/-- The three sub-steps in their fixed order (R69). -/
def fetch (s : State) : State := fetchByte (fetchIncrement (fetchAddress s))

/-! ### STATUS and the terminal outcomes -/

/-- The 2-bit code of STATUS (R22). -/
def Status.code : Status → BitVec 2
  | .ready => 0b00#2
  | .halted => 0b01#2
  | .faultInvalidOpcode => 0b10#2
  | .faultPcOverflow => 0b11#2

/-- The four outcomes of a STEP (R85). -/
inductive StepOutcome where
  | continued
  | halted
  | errInvalidOpcode (op : Opcode)
  | errPcOverflow
  deriving DecidableEq, Repr

/-- The 2-bit code of an outcome (R85). -/
def StepOutcome.code : StepOutcome → BitVec 2
  | .continued => 0b00#2
  | .halted => 0b01#2
  | .errInvalidOpcode _ => 0b10#2
  | .errPcOverflow => 0b11#2

/-- The outcome the STEP that left this state returned: STATUS, with IR[7:4] as the value of an invalid opcode (R85, R86,
R91). -/
def State.stepOutcome (s : State) : StepOutcome :=
  match s.status with
  | .ready => .continued
  | .halted => .halted
  | .faultInvalidOpcode => .errInvalidOpcode (opcodeOf s.ir)
  | .faultPcOverflow => .errPcOverflow

/-- Taking a terminal outcome: it saves nothing and transfers control nowhere; the outcome is latched in STATUS and every
register keeps what the STEP left in it (R90). -/
def takeTerminal (o : Status) (s : State) : State := s.setStatus o

/-- raise InvalidOpcode(IR[7:4]) (R86): the state stays as it was after the failing fetch. -/
def raiseInvalidOpcode (s : State) : State := takeTerminal .faultInvalidOpcode s

/-- raise ProgramCounterOverflow (R70, R87): nothing but STATUS changes. -/
def raisePcOverflow (s : State) : State := takeTerminal .faultPcOverflow s

/-- The RESET command, the only way out of a terminal outcome (R92): every register 0, Z and C cleared, STATUS <- READY,
memory unchanged (R25, R100). -/
def applyReset (s : State) : State := { State.reset with mem := s.mem }

/-- The LOAD command: memory replaced wholesale, no register, no flag and not STATUS changed (R29, R102). -/
def applyLoad (img : Image) (s : State) : State := s.setMem (Memory.ofImage img)

/-- The machine at power-on (R26): Z = C = 0, everything else unspecified (log entry 3), and no RESET seen. -/
def State.powerOn (p : PowerOn) : State where
  pc := p.pc
  acc := p.acc
  ar := p.ar
  ir := p.ir
  b := p.b
  out := p.out
  z := 0
  c := 0
  status := p.status
  mem := Memory.ofImage p.memory
  resetSeen := false

/-! ### Reading an outcome of the host's interface -/

/-- The next state, where there is one. -/
def nextState? {σ φ ρ : Type} : Host.Outcome σ φ ρ → Option σ
  | .next s => some s
  | .fault _ => none
  | .refused _ => none

/-- The same outcome with its next state changed by f. -/
def mapNext {σ τ φ ρ : Type} (f : σ → τ) : Host.Outcome σ φ ρ → Host.Outcome τ φ ρ
  | .next s => .next (f s)
  | .fault r => .fault r
  | .refused r => .refused r

end Sys2Proof.Machine
end

