-- ==== Sys2Proof/Machine/Cycle.lean ====
section
/-! DEFINITION. What a STEP does before the execute phase (spec/40_instruction_cycle.md R67): the latch, the overflow check,
the fetch and the decode. Step.lean only runs what this file issues. -/

namespace Sys2Proof.Machine

/-- What a STEP comes to before its execute phase. -/
inductive Issue where
  /-- The STEP ends here, in this state. -/
  | finished (s : State)
  /-- The fetched instruction is to be executed in this state. -/
  | execute (i : Instr) (s : State)
  /-- The model gives the STEP no meaning. -/
  | refuse (r : Refusal)
  deriving DecidableEq, Repr

/-- Decode and dispatch, after the fetch (R74, R75): the five opcodes go to their rules, 0x3 to 0xD to InvalidOpcode. -/
def issueFetched (s : State) : Issue :=
  match decode s.ir with
  | .instr i => .execute i s
  | .invalid _ => .finished (raiseInvalidOpcode s)

/-- The STEP up to its execute phase: refused before the first RESET (R26); ignored while STATUS is not READY (R91); the
overflow check, PC >= 16, before any fetch (R70); then fetch and decode. -/
def issue (s : State) : Issue :=
  if s.resetSeen = false then .refuse .stepBeforeReset
  else if s.status ≠ .ready then .finished s
  else if 16 ≤ s.pc.toNat then .finished (raisePcOverflow s)
  else issueFetched (fetch s)

/-- The STEP command's next phase needs STATUS = READY (R69). -/
def readyForStep (s : State) : Bool := s.resetSeen && decide (s.status = .ready)

/-- The 16 bytes of M with the byte at PC[3:0] replaced: the image a LOAD gives the machine to run a byte next. -/
def imageWithFetchByte (s : State) (v : Byte) : Image := s.mem.toImage.setIfInBounds s.pcAddr.toNat v

/-- The state in which the very next STEP fetches the byte v: memory loaded with v where the STEP fetches, and what the
fetch needs besides: a RESET seen, STATUS READY and PC below 16 (left alone where it already is; log entry 6). -/
def armedWithByte (s : State) (v : Byte) : State :=
  let s1 : State := { s with resetSeen := true, status := .ready, pc := if 16 ≤ s.pc.toNat then 0#5 else s.pc }
  applyLoad (imageWithFetchByte s1 v) s1

end Sys2Proof.Machine
end

