-- ==== Sys2Proof/Machine/Flags.lean ====
section
/-! DEFINITION. The flags Z and C (spec/10_state.md R20, R21) and the ALU (spec/41_memory_alu.md R78). The spec gives NO flag
computation: no instruction writes or reads a flag, and "A model must keep Z and C as inert fields and must not give them
semantics" (R21). The ALU's two operations have a byte as their whole result. -/

namespace Sys2Proof.Machine

/-- Both flags hold 0, the value they have at all times after construction or RESET (R20). -/
def State.flagsClear (s : State) : Bool := s.z == 0#1 && s.c == 0#1

/-- ALU add: (x + y) mod 256, computed exactly and then narrowed (R78). -/
def aluAdd (x y : Byte) : Byte := BitVec.ofNat 8 (x.toNat + y.toNat)

/-- ALU subtract: (x - y) mod 256, computed exactly in the integers and then narrowed (R78). -/
def aluSub (x y : Byte) : Byte := BitVec.ofInt 8 ((x.toNat : Int) - (y.toNat : Int))

end Sys2Proof.Machine
end

