-- ==== Sys2Proof/Machine/Operands.lean ====
section
/-! DEFINITION. The one addressing mode, direct: the effective address is the operand nibble, held in AR
(spec/41_memory_alu.md R82, spec/30_encoding.md R42). -/

namespace Sys2Proof.Machine

/-- AR <- a, the operand unchanged: no extension, scaling, offset or base (R42, R82). -/
def resolveOperand (a : Addr) (s : State) : State := s.setAr a

/-- AR <- a; B <- M[AR]: the operand read of SOM and SUB (R80, R81). -/
def loadSecondOperand (a : Addr) (s : State) : State :=
  let s1 := resolveOperand a s
  s1.setB s1.memAtAr

end Sys2Proof.Machine
end

