-- ==== Sys2Proof/Machine/MemoryAlu.lean ====
section
/-! DEFINITION. The meanings of CAR, SOM and SUB (spec/41_memory_alu.md): the execute phase, after the fetch. -/

namespace Sys2Proof.Machine

/-- CAR a: AR <- a; ACC <- M[AR] (R79). -/
def execCar (a : Addr) (s : State) : Host.Outcome State Fault Refusal :=
  let s1 := resolveOperand a s
  .next (s1.setAcc s1.memAtAr)

/-- SOM a: AR <- a; B <- M[AR]; ACC <- (ACC + B) mod 256 (R80). -/
def execSom (a : Addr) (s : State) : Host.Outcome State Fault Refusal :=
  let s1 := loadSecondOperand a s
  .next (s1.setAcc (aluAdd s1.acc s1.b))

/-- SUB a: AR <- a; B <- M[AR]; ACC <- (ACC - B) mod 256 (R81). -/
def execSub (a : Addr) (s : State) : Host.Outcome State Fault Refusal :=
  let s1 := loadSecondOperand a s
  .next (s1.setAcc (aluSub s1.acc s1.b))

end Sys2Proof.Machine
end

