-- ==== Sys2Proof/Machine/OutputHalt.lean ====
section
/-! DEFINITION. The meanings of SAI and PAR (spec/42_output_halt.md): the execute phase, after the fetch. -/

namespace Sys2Proof.Machine

/-- SAI: OUT <- ACC (R83). -/
def execSai (s : State) : Host.Outcome State Fault Refusal :=
  .next (s.setOut s.acc)

/-- PAR: STATUS <- HALTED, "no register change" beyond the fetch (R84). -/
def execPar (s : State) : Host.Outcome State Fault Refusal :=
  .next (takeTerminal .halted s)

end Sys2Proof.Machine
end

