-- ==== Sys2Proof/Machine/Dispatch.lean ====
section
/-! DEFINITION. The dispatch of the execute phase (spec/40_instruction_cycle.md R75): "a tagged-union/enum match over the
five opcodes". One arm per constructor. -/

namespace Sys2Proof.Machine

def exec (i : Instr) (s : State) : Host.Outcome State Fault Refusal :=
  match i with
  | .car a => Sys2Proof.Machine.execCar a s
  | .som a => Sys2Proof.Machine.execSom a s
  | .sub a => Sys2Proof.Machine.execSub a s
  | .sai => Sys2Proof.Machine.execSai s
  | .par => Sys2Proof.Machine.execPar s

end Sys2Proof.Machine
end

