-- ==== Sys2Proof/Machine/Step.lean ====
section
/-! DEFINITION. One STEP command (spec/40_instruction_cycle.md R67): indivisible (R68), exactly one instruction. -/

namespace Sys2Proof.Machine

/-- One STEP: what Cycle.issue comes to, with the execute phase by exec (R67). -/
def step (s : State) : Host.Outcome State Fault Refusal :=
  match issue s with
  | .finished t => .next t
  | .execute i t => exec i t
  | .refuse r => .refused r

/-- The state s with the instruction word w placed where the next STEP fetches, so that the very next STEP runs exactly it.
It stands for the host's LOAD (R102); see log entry 6. -/
def State.withFetchWord (s : State) (nbits w : Nat) : State :=
  armedWithByte s (BitVec.ofNat 8 (w % 2 ^ nbits))

end Sys2Proof.Machine
end

