-- ==== Sys2Proof/Config.lean ====
section
/-! DEFINITION. What the spec leaves open and the model leaves free. The parameters of R5 that have a value stand in the
types of Word.lean; POWER_ON_MEMORY and the power-on registers are arguments of Machine.State.powerOn. -/

namespace Sys2Proof

/-- Is a character that the spec does not classify a whitespace character of the assembly text? R49 says "whitespace" and
gives no list. The spec's own words settle space, tab (test vector S4) and carriage return (R55), and that printable ASCII
is not whitespace; for every other character the answer is free (log entry 8). -/
opaque Config.otherWhitespace : Char → Bool

/-- The text of an assembly error message, from the source and the error: "its text is not specified" (R64, D17), so it is
free (log entry 9). -/
opaque Config.asmErrorText : List Char → AsmError → String

end Sys2Proof
end

