-- ==== Sys2Proof/WellFormed.lean ====
section
/-! DEFINITION. Which instructions and which instruction bytes are well formed. An operand is a 4-bit address by its type,
so every term of Instr is well formed (spec/30_encoding.md R42: all 16 values of the operand are addresses); the checks
that can refuse are on raw bytes. (The ranges of the numbers in the assembly text stand in Machine/Assembler.lean.) -/

namespace Sys2Proof

/-- Well-formedness of an instruction. The 4-bit operand type already holds the only condition there is (operand 0 to 15),
so there is nothing left to check. -/
def Instr.wf : Instr → Bool
  | .car _ => true
  | .som _ => true
  | .sub _ => true
  | .sai => true
  | .par => true

/-- The byte is a legal instruction: its opcode is one of the five defined ones (R44, R46). -/
def legalByte (b : Byte) : Bool :=
  opcodeOf b == 0x0#4 || opcodeOf b == 0x1#4 || opcodeOf b == 0x2#4 || opcodeOf b == 0xE#4 || opcodeOf b == 0xF#4

/-- The byte is one the assembler's instruction write-pointer can write: a legal opcode, with operand 0 for SAI and PAR
(R48, R66). -/
def assemblerByte (b : Byte) : Bool :=
  legalByte b && (!(opcodeOf b == 0xE#4 || opcodeOf b == 0xF#4) || operandOf b == 0x0#4)

end Sys2Proof
end

