-- ==== Sys2Proof/Machine/Assembler.lean ====
section
/-! DEFINITION. The assembler, the instruction encoder that makes the 16-byte image (spec/30_encoding.md sections 3 and 4, R49
to R66). The source text is a list of characters; a pure function gives an image or exactly one error (R53, R65). -/

namespace Sys2Proof.Machine

/-! ### Characters, lines and tokens -/

/-- The characters between which a line's text is split into tokens (R49, R56). Space, tab and carriage return are whitespace
(R55, test vectors S4 and S8), and so is the line feed, which never stands inside a line; printable ASCII is not; every
other character is free (log entry 8). -/
def isWhitespace (ch : Char) : Bool :=
  if ch = ' ' ∨ ch = '\t' ∨ ch = '\r' ∨ ch = '\n' then true
  else if 33 ≤ ch.toNat ∧ ch.toNat ≤ 126 then false
  else Config.otherWhitespace ch

/-- The pieces of a text between the characters that p holds of: one more piece than there are such characters. -/
def splitWhere (p : Char → Bool) : List Char → List (List Char)
  | [] => [[]]
  | ch :: rest =>
    if p ch then [] :: splitWhere p rest
    else
      match splitWhere p rest with
      | [] => [[ch]]
      | piece :: pieces => (ch :: piece) :: pieces

/-- Lines are split at each line feed; the text after the last one is the last line, even if empty (R55). -/
def sourceLines (src : List Char) : List (List Char) := splitWhere (fun ch => ch == '\n') src

/-- "Strip everything from the first ; to end of line" (R56). -/
def stripComment (line : List Char) : List Char := line.takeWhile (fun ch => ch != ';')

/-- Trim and tokenize on whitespace (R56): the pieces between whitespace that are not empty. A blank line has none. -/
def lineTokens (line : List Char) : List (List Char) :=
  (splitWhere isWhitespace (stripComment line)).filter (fun t => !t.isEmpty)

/-- An ASCII letter in upper case; any other character as it is (log entry 10). -/
def upperAscii (ch : Char) : Char := if 97 ≤ ch.toNat ∧ ch.toNat ≤ 122 then Char.ofNat (ch.toNat - 32) else ch

/-- The first token, case-insensitive (R49, R56, R57, R58, R59). -/
def keywordOf (token : List Char) : Option Keyword :=
  let t := token.map upperAscii
  if t = ['O', 'R', 'G'] then some .org
  else if t = ['D', 'B'] then some .db
  else if t = ['C', 'A', 'R'] then some .car
  else if t = ['S', 'O', 'M'] then some .som
  else if t = ['S', 'U', 'B'] then some .sub
  else if t = ['S', 'A', 'I'] then some .sai
  else if t = ['P', 'A', 'R'] then some .par
  else none

/-! ### Numbers -/

/-- The value of a digit character, 0-9, a-f or A-F. -/
def digitValue (ch : Char) : Option Nat :=
  if 48 ≤ ch.toNat ∧ ch.toNat ≤ 57 then some (ch.toNat - 48)
  else if 65 ≤ ch.toNat ∧ ch.toNat ≤ 70 then some (ch.toNat - 55)
  else if 97 ≤ ch.toNat ∧ ch.toNat ≤ 102 then some (ch.toNat - 87)
  else none

/-- The digits of a number, most significant first, read in the base on top of the value so far; none at a character that is
no digit of the base. -/
def digitsValue (base : Nat) : Nat → List Char → Option Nat
  | value, [] => some value
  | value, ch :: rest =>
    match digitValue ch with
    | some d => if d < base then digitsValue base (value * base + d) rest else none
    | none => none

/-- One or more digits of the base, any number of them (R51, R52). -/
def unsignedNumber (base : Nat) (digits : List Char) : Option Nat :=
  if digits.isEmpty then none else digitsValue base 0 digits

/-- The optional prefix 0x or 0X (R51). -/
def dropHexPrefix : List Char → List Char
  | '0' :: 'x' :: rest => rest
  | '0' :: 'X' :: rest => rest
  | text => text

/-- The optional sign + or - before an unsigned number (R51, R52). -/
def signedNumber (unsigned : List Char → Option Nat) : List Char → Option Int
  | '+' :: rest => (unsigned rest).map fun (n : Nat) => (n : Int)
  | '-' :: rest => (unsigned rest).map fun (n : Nat) => -(n : Int)
  | text => (unsigned text).map fun (n : Nat) => (n : Int)

/-- The value of a hex-number token, none if it is malformed (R51). -/
def hexNumber (token : List Char) : Option Int :=
  signedNumber (fun t => unsignedNumber 16 (dropHexPrefix t)) token

/-- The value of a dec-number token, none if it is malformed (R52). -/
def decNumber (token : List Char) : Option Int := signedNumber (unsignedNumber 10) token

/-! ### Ranges -/

/-- The range of an address operand or an ORG address: 0 to 15 (R57, R60). -/
def addressInRange (v : Int) : Bool := decide (0 ≤ v) && decide (v ≤ 15)

/-- The range of a DB value: 0 to 255 (R58). -/
def dbValueInRange (v : Int) : Bool := decide (0 ≤ v) && decide (v ≤ 255)

/-! ### The two write-pointers and the image -/

/-- Which of the two pointers wrote a byte last. -/
inductive Writer where
  | instruction
  | data
  deriving DecidableEq, Repr

/-- The assembler's state (R54). The writer of each byte is the model's own record, so that R66 can be said; no rule of the
assembler reads it (log entry 13). -/
structure AsmState where
  image : Image
  ip : Nat
  dp : Nat
  orgSeen : Bool
  writers : Vector (Option Writer) 16
  deriving DecidableEq, Repr

/-- The fresh state of each call: the image all 0x00, ip = 0, dp = 0 and not yet set (R54). -/
def AsmState.initial : AsmState where
  image := Vector.replicate 16 0x00#8
  ip := 0
  dp := 0
  orgSeen := false
  writers := Vector.replicate 16 none

/-- A byte written at a position of the image: it replaces an earlier byte, whichever pointer wrote that (R62). -/
def AsmState.put (st : AsmState) (position : Nat) (v : Byte) (w : Writer) : AsmState :=
  { st with image := st.image.setIfInBounds position v, writers := st.writers.setIfInBounds position (some w) }

/-- Write one instruction at ip and advance it; MemoryOverflow if ip >= 16 before writing (R60, R61). -/
def emitInstr (i : Instr) (st : AsmState) : Except AsmErrorKind AsmState :=
  if 16 ≤ st.ip then .error .memoryOverflow
  else .ok { st.put st.ip (encode i) .instruction with ip := st.ip + 1 }

/-- "require exactly one following token": MissingOperand for none, UnexpectedOperand for more (R57, R58, R60). -/
def oneOperand : List (List Char) → Except AsmErrorKind (List Char)
  | [] => .error .missingOperand
  | [t] => .ok t
  | _ :: _ :: _ => .error .unexpectedOperand

/-- An address operand: one hex token with a value 0 to 15 (R57, R60). -/
def addressOperand (operands : List (List Char)) : Except AsmErrorKind Nat :=
  match oneOperand operands with
  | .error k => .error k
  | .ok t =>
    match hexNumber t with
    | none => .error .malformedNumber
    | some v => if addressInRange v then .ok v.toNat else .error .operandOutOfRange

/-- A DB operand: one decimal token with a value 0 to 255 (R58). -/
def dbOperand (operands : List (List Char)) : Except AsmErrorKind Byte :=
  match oneOperand operands with
  | .error k => .error k
  | .ok t =>
    match decNumber t with
    | none => .error .malformedNumber
    | some v => if dbValueInRange v then .ok (BitVec.ofNat 8 v.toNat) else .error .invalidDbValue

/-- ORG sets dp and does not move ip (R57). -/
def asmOrg (operands : List (List Char)) (st : AsmState) : Except AsmErrorKind AsmState :=
  match addressOperand operands with
  | .error k => .error k
  | .ok v => .ok { st with dp := v, orgSeen := true }

/-- DB writes one byte at dp and advances it; its checks in the source's order (R58). -/
def asmDb (operands : List (List Char)) (st : AsmState) : Except AsmErrorKind AsmState :=
  match dbOperand operands with
  | .error k => .error k
  | .ok v =>
    if st.orgSeen = false then .error .dbWithoutOrg
    else if 16 ≤ st.dp then .error .memoryOverflow
    else .ok { st.put st.dp v .data with dp := st.dp + 1 }

/-- CAR, SOM and SUB (R60). -/
def asmAddressed (mk : Addr → Instr) (operands : List (List Char)) (st : AsmState) : Except AsmErrorKind AsmState :=
  match addressOperand operands with
  | .error k => .error k
  | .ok v => emitInstr (mk (BitVec.ofNat 4 v)) st

/-- SAI and PAR: no operand token (R61). -/
def asmPlain (i : Instr) (operands : List (List Char)) (st : AsmState) : Except AsmErrorKind AsmState :=
  if operands.isEmpty then emitInstr i st else .error .unexpectedOperand

/-- The statement of one line, by its tokens: nothing, a directive, an instruction, or an unknown first token (R56 to R61). -/
def asmTokens (tokens : List (List Char)) (st : AsmState) : Except AsmErrorKind AsmState :=
  match tokens with
  | [] => .ok st
  | first :: operands =>
    match keywordOf first with
    | none => .error .unknownMnemonic
    | some .org => asmOrg operands st
    | some .db => asmDb operands st
    | some .car => asmAddressed .car operands st
    | some .som => asmAddressed .som operands st
    | some .sub => asmAddressed .sub operands st
    | some .sai => asmPlain .sai operands st
    | some .par => asmPlain .par operands st

/-- One source line. -/
def asmLine (line : List Char) (st : AsmState) : Except AsmErrorKind AsmState := asmTokens (lineTokens line) st

/-! ### The whole source -/

/-- The lines in order, each once, the first with the given number; the first invalid line aborts with its number and kind
(R53, R55). -/
def asmLines : Nat → List (List Char) → AsmState → Except AsmError AsmState
  | _, [], st => .ok st
  | n, line :: rest, st =>
    match asmLine line st with
    | .ok st' => asmLines (n + 1) rest st'
    | .error k => .error ⟨n, k⟩

/-- The assembler's final state. -/
def assembleState (src : List Char) : Except AsmError AsmState := asmLines 1 (sourceLines src) AsmState.initial

/-- assemble(source): the image, or exactly one error (R53, R63). -/
def assemble (src : List Char) : Except AsmError Image :=
  match assembleState src with
  | .ok st => .ok st.image
  | .error e => .error e

/-- The message an error carries; its text is not specified (R64, D17), so it is a free value (log entry 9). -/
def asmErrorMessage (src : List Char) (e : AsmError) : String := Config.asmErrorText src e

end Sys2Proof.Machine
end

