-- ==== Sys2Proof/Machine/Commands.lean ====
section
/-! DEFINITION. The host's interface (spec/00_scope.md R10, R11; spec/70_reset_and_hazards.md): the four commands, applied one
at a time and completely, their answers, and the procedure RUN. -/

namespace Sys2Proof.Machine

/-- The four commands (R10). -/
inductive Command where
  | reset
  | load (image : Image)
  | step
  | snapshot
  deriving DecidableEq, Repr

/-- The read-only view of every register, the flags, STATUS and the 16 bytes of M (R11). -/
structure Snapshot where
  pc : PcWord
  acc : Byte
  ar : Addr
  ir : Byte
  b : Byte
  out : Byte
  z : BitVec 1
  c : BitVec 1
  status : BitVec 2
  memory : Image
  deriving DecidableEq, Repr

/-- What the block answers to a command (R10, R107). -/
inductive Response where
  | done
  | outcome (o : StepOutcome)
  | view (v : Snapshot)
  deriving DecidableEq, Repr

/-- SNAPSHOT's value: everything as it stands between two commands (R11). -/
def State.snapshot (s : State) : Snapshot where
  pc := s.pc
  acc := s.acc
  ar := s.ar
  ir := s.ir
  b := s.b
  out := s.out
  z := s.z
  c := s.c
  status := s.status.code
  memory := s.mem.toImage

/-- The OUT register, continuously visible outside (R10, R19, R107). -/
def State.outPort (s : State) : Byte := s.out

/-- One command, applied completely (R10, R107). A STEP answers its outcome (R85, R91). -/
def applyCommand (k : Command) (s : State) : Host.Outcome (State × Response) Fault Refusal :=
  match k with
  | .reset => .next (applyReset s, .done)
  | .load img => .next (applyLoad img s, .done)
  | .step => mapNext (fun t => (t, .outcome t.stepOutcome)) (step s)
  | .snapshot => .next (s, .view s.snapshot)

/-- A sequence of commands, each applied completely before the next (R10), with the answers in order. -/
def applyCommands : List Command → State → Host.Outcome (State × List Response) Fault Refusal
  | [], s => .next (s, [])
  | k :: ks, s =>
    match applyCommand k s with
    | .next (t, r) => mapNext (fun p => (p.1, r :: p.2)) (applyCommands ks t)
    | .fault f => .fault f
    | .refused r => .refused r

/-- HaltReason (R105). -/
inductive HaltReason where
  | explicitHalt
  | programCounterOverflow
  deriving DecidableEq, Repr

/-- Result<HaltReason, ExecutionError>, what RUN returns (R105). -/
inductive RunResult where
  | ok (h : HaltReason)
  | err (e : Fault)
  deriving DecidableEq, Repr

/-- RUN's reading of one STEP outcome: go on (none), or end with a result (R105). -/
def runResultOf : StepOutcome → Option RunResult
  | .continued => none
  | .halted => some (.ok .explicitHalt)
  | .errPcOverflow => some (.ok .programCounterOverflow)
  | .errInvalidOpcode v => some (.err (.invalidOpcode v))

/-- How a RUN of at most so many STEPs ends. -/
inductive RunEnd where
  /-- RUN returned this result, in this state, after this many STEPs. -/
  | returned (r : RunResult) (s : State) (steps : Nat)
  /-- The allowed STEPs are used up (never within 17; R106). -/
  | outOfSteps (s : State)
  /-- A STEP was refused or faulted. -/
  | stopped
  deriving DecidableEq, Repr

/-- RUN's loop (R105), with at most the given number of STEPs; done counts the STEPs already made. -/
def runLoop : Nat → Nat → State → RunEnd
  | 0, _, s => .outOfSteps s
  | n + 1, done, s =>
    match step s with
    | .next t =>
      match runResultOf t.stepOutcome with
      | some r => .returned r t (done + 1)
      | none => runLoop n (done + 1) t
    | .fault _ => .stopped
    | .refused _ => .stopped

/-- RUN (R105). It issues at most 17 STEPs (R106), so a bound of 17 leaves nothing out. -/
def run (s : State) : RunEnd := runLoop 17 0 s

end Sys2Proof.Machine
end

