-- ==== Sys2Proof/Machine/Phases.lean ====
section
/-! DEFINITION. The control unit as the state machine of spec/40_instruction_cycle.md R69. The phase is IDLE between commands
and no command can observe another phase (spec/10_state.md R27), so it is no field of State; this file says what happens
inside a STEP (log entry 7). -/

namespace Sys2Proof.Machine

/-- The phases of R69. -/
inductive Phase where
  | idle
  | check
  | f1
  | f2
  | f3
  | decode
  | execute
  deriving DecidableEq, Repr

/-- The core in the middle of a STEP: its phase and its registers and memory. -/
structure Control where
  phase : Phase
  core : State
  deriving DecidableEq, Repr

/-- The STEP command arrives in IDLE: to CHECK with STATUS = READY, else it stays in IDLE (R69). A STEP before the first
RESET is refused (R26). -/
def Control.start (s : State) : Host.Outcome Control Fault Refusal :=
  if s.resetSeen = false then .refused .stepBeforeReset
  else .next ⟨if readyForStep s then .check else .idle, s⟩

/-- One phase of R69: its action, then its next phase. In EXECUTE an invalid opcode raises InvalidOpcode (R86). -/
def Control.tick (k : Control) : Host.Outcome Control Fault Refusal :=
  match k.phase with
  | .idle => .next k
  | .check =>
    if 16 ≤ k.core.pc.toNat then .next ⟨.idle, raisePcOverflow k.core⟩ else .next ⟨.f1, k.core⟩
  | .f1 => .next ⟨.f2, fetchAddress k.core⟩
  | .f2 => .next ⟨.f3, fetchIncrement k.core⟩
  | .f3 => .next ⟨.decode, fetchByte k.core⟩
  | .decode => .next ⟨.execute, k.core⟩
  | .execute =>
    match Sys2Proof.decode k.core.ir with
    | .instr i => mapNext (Control.mk .idle) (exec i k.core)
    | .invalid _ => .next ⟨.idle, raiseInvalidOpcode k.core⟩

/-- n phases one after the other; IDLE waits. -/
def Control.ticks : Nat → Control → Host.Outcome Control Fault Refusal
  | 0, k => .next k
  | n + 1, k =>
    match k.tick with
    | .next k' => Control.ticks n k'
    | .fault r => .fault r
    | .refused r => .refused r

/-- The whole STEP by phases: start, then six ticks (CHECK to EXECUTE), which reach IDLE again. -/
def stepByPhases (s : State) : Host.Outcome Control Fault Refusal :=
  match Control.start s with
  | .next k => Control.ticks 6 k
  | .fault r => .fault r
  | .refused r => .refused r

end Sys2Proof.Machine
end

