-- ==== Sys2Proof/Safety.lean ====
section
/-! DEFINITION. The terms the claims use: when a STEP fetches, the byte it fetches, a run of STEPs, equal bytes of memory, and
the invariant of the machine. -/

namespace Sys2Proof.Machine

/-- The STEP passes the latch and the overflow check, so it fetches (spec/40_instruction_cycle.md R67, R70). -/
structure State.Fetches (s : State) : Prop where
  afterReset : s.resetSeen = true
  ready : s.status = .ready
  inMemory : s.pc.toNat < 16

/-- M[PC[3:0]], the byte the fetch reads through AR (R71, R73). -/
def State.nextByte (s : State) : Byte := s.mem.read s.pcAddr

/-- The byte at the numeric address PC, the one a STEP that fetches fetches (R73). -/
def State.byteAtPc (s : State) : Byte := s.mem.byteAt s.pc.toNat

/-- Every byte of memory reads in t as in s. -/
def SameBytes (s t : State) : Prop := ∀ a : Addr, t.mem.read a = s.mem.read a

/-- The flags, which no instruction writes (R20), and the model's own resetSeen hold in t what they hold in s. -/
def SameFlags (s t : State) : Prop := t.z = s.z ∧ t.c = s.c ∧ t.resetSeen = s.resetSeen

/-- Every register is 0 and STATUS is READY, as RESET leaves them (R25). -/
def State.RegistersReset (s : State) : Prop :=
  s.pc = 0 ∧ s.acc = 0 ∧ s.ar = 0 ∧ s.ir = 0 ∧ s.b = 0 ∧ s.out = 0 ∧ s.z = 0 ∧ s.c = 0 ∧ s.status = .ready

/-- n STEP commands one after the other. -/
def stepTimes : Nat → State → Host.Outcome State Fault Refusal
  | 0, s => .next s
  | n + 1, s =>
    match step s with
    | .next t => stepTimes n t
    | .fault r => .fault r
    | .refused r => .refused r

/-- The byte ends a run: a PAR or an invalid opcode (R77). -/
def endsRun (b : Byte) : Bool := decide (3 ≤ (opcodeOf b).toNat ∧ (opcodeOf b).toNat ≤ 13) || decide ((opcodeOf b).toNat = 15)

/-- The image the last LOAD of a command sequence gives, if there is one. -/
def lastLoad : List Command → Option Image
  | [] => none
  | .load img :: ks => some ((lastLoad ks).getD img)
  | .reset :: ks => lastLoad ks
  | .step :: ks => lastLoad ks
  | .snapshot :: ks => lastLoad ks

/-- Every line is valid, each in the assembler state that the lines before it leave, and the last leaves st' (R53, R55). -/
def ValidLines : List (List Char) → AsmState → AsmState → Prop
  | [], st, st' => st' = st
  | line :: rest, st, st' => ∃ u, asmLine line st = .ok u ∧ ValidLines rest u st'

/-- The characters 0-9, a-f, A-F (R51). -/
def hexDigits : List Char :=
  ['0', '1', '2', '3', '4', '5', '6', '7', '8', '9'] ++
  ['a', 'b', 'c', 'd', 'e', 'f'] ++ ['A', 'B', 'C', 'D', 'E', 'F']

/-- The characters 0-9 (R52). -/
def decDigits : List Char := ['0', '1', '2', '3', '4', '5', '6', '7', '8', '9']

/-- What a digit counts: its place in 0123456789ABCDEF, letters of either case. -/
def digitWeight (ch : Char) : Nat := (decDigits ++ ['A', 'B', 'C', 'D', 'E', 'F']).idxOf (upperAscii ch)

/-- The number that digits spell in a base, most significant digit first (R51, R52). -/
def spelledValue (base : Nat) (digits : List Char) : Nat := digits.foldl (fun v ch => v * base + digitWeight ch) 0

/-- The signed number that an optional sign and digits spell (R51, R52). -/
def signedValue (sign : List Char) (v : Nat) : Int := if sign = ['-'] then -(v : Int) else (v : Int)

/-- What holds of the machine at all times after a RESET: memory in canonical form, PC 0 to 16 (R14), the flags 0 (R20), and
each terminal STATUS with the state its outcome leaves (R84, R86, R87). -/
structure State.Inv (s : State) : Prop where
  afterReset : s.resetSeen = true
  memory : s.mem.wf = true
  pcRange : s.pc.toNat ≤ 16
  flags : s.flagsClear = true
  halted : s.status = .halted → opcodeOf s.ir = 0xF#4 ∧ s.pc.toNat = s.ar.toNat + 1
  invalidOpcode : s.status = .faultInvalidOpcode →
    (3 ≤ (opcodeOf s.ir).toNat ∧ (opcodeOf s.ir).toNat ≤ 13) ∧ s.pc.toNat = s.ar.toNat + 1
  pcOverflow : s.status = .faultPcOverflow → s.pc.toNat = 16

end Sys2Proof.Machine
end

