-- ==== Sys2Proof/Certificates/Slice0/Obligations.lean ====
section
/-! DEFINITION. The statements for the provers. R<n> is a numbered rule of spec/, D<n> a decision of spec/92_eei_decisions.md.
STATUS and the 2-bit codes are the spec's own latch (D3); a statement that rests on a rule the spec tags as its own decision or
derivation is marked derived in OBLIGATIONS.json. -/

open Sys2Proof Sys2Proof.Machine

/-! ### Power-on, RESET, LOAD, SNAPSHOT -/

/-- R26, D5 (the spec's decision; the field resetSeen that carries it is the model's own, log entry 2): before the first RESET a
command sequence with a STEP in it is refused; one without leaves the power-on registers and Z = C = 0, and memory reads as the
last LOAD left it, or as POWER_ON_MEMORY. -/
def Obligations.StepsBeforeTheFirstResetAreRefused : Prop :=
  ∀ (p : PowerOn) (ks : List Command), Command.reset ∉ ks →
    (Command.step ∈ ks → applyCommands ks (State.powerOn p) = .refused .stepBeforeReset) ∧
    (Command.step ∉ ks → ∃ t rs, applyCommands ks (State.powerOn p) = .next (t, rs) ∧
      t.z = 0 ∧ t.c = 0 ∧ t.pc = p.pc ∧ t.acc = p.acc ∧ t.ar = p.ar ∧ t.ir = p.ir ∧ t.b = p.b ∧ t.out = p.out ∧
      t.status = p.status ∧ ∀ a : Addr, t.mem.read a = ((lastLoad ks).getD p.memory)[a.toNat]'a.isLt)

/-- R100: in any STATUS, RESET sets every register to 0, clears Z and C, sets STATUS to READY and leaves all memory bytes. -/
def Obligations.ResetClearsEveryRegisterAndKeepsMemory : Prop :=
  ∀ s : State, ∃ t, applyCommand .reset s = .next (t, .done) ∧ t.RegistersReset ∧ SameBytes s t

/-- R25, the table of values: the constant state after reset holds them, and it is what RESET gives a machine whose memory lists
nothing (the memory of that constant is the model's choice, log entry 1). -/
def Obligations.ResetStateHoldsTheResetValues : Prop :=
  State.reset.RegistersReset ∧ ∀ s : State, s.mem = [] → applyReset s = State.reset

/-- R101: after any sequence of commands RESET gives all registers zero with STATUS READY and the memory the last LOAD left, and
a second RESET changes nothing. -/
def Obligations.ResetForgetsHistory : Prop :=
  ∀ (ks : List Command) (s t : State) (rs : List Response), applyCommands ks s = .next (t, rs) →
    (applyReset t).RegistersReset ∧ applyReset (applyReset t) = applyReset t ∧
    ∀ a : Addr, (applyReset t).mem.read a =
      match lastLoad ks with
      | some img => img[a.toNat]'a.isLt
      | none => s.mem.read a

/-- R29: LOAD sets M[i] to image[i] for every i and changes no register, no flag and not STATUS; no other command, a STEP
included, changes a byte of memory. -/
def Obligations.LoadIsTheOnlyWriteOfMemory : Prop :=
  (∀ (img : Image) (s : State), ∃ t, applyCommand (.load img) s = .next (t, .done) ∧
    (∀ a : Addr, t.mem.read a = img[a.toNat]'a.isLt) ∧
    t.pc = s.pc ∧ t.acc = s.acc ∧ t.ar = s.ar ∧ t.ir = s.ir ∧ t.b = s.b ∧ t.out = s.out ∧ t.status = s.status ∧
    SameFlags s t) ∧
  (∀ (k : Command) (s t : State) (r : Response), applyCommand k s = .next (t, r) → (∀ img, k ≠ .load img) → SameBytes s t)

/-- R103 (the spec's derivation): RESET then LOAD and LOAD then RESET give the same state. -/
def Obligations.ResetAndLoadCommute : Prop :=
  ∀ (img : Image) (s : State), applyCommands [.reset, .load img] s = applyCommands [.load img, .reset] s

/-- R23, R28: memory is its 16 bytes. Two memories in canonical form that read alike at every address are the same data. -/
def Obligations.CanonicalMemoriesThatReadAlikeAreEqual : Prop :=
  ∀ m m' : Memory, m.wf = true → m'.wf = true → (∀ a : Addr, m.read a = m'.read a) → m = m'

/-- R11: SNAPSHOT changes no state and returns every register, the flags, STATUS and the 16 bytes as they stand. -/
def Obligations.SnapshotReadsEverythingAndChangesNothing : Prop :=
  ∀ s : State, ∃ v, applyCommand .snapshot s = .next (s, .view v) ∧
    v.pc = s.pc ∧ v.acc = s.acc ∧ v.ar = s.ar ∧ v.ir = s.ir ∧ v.b = s.b ∧ v.out = s.out ∧ v.z = s.z ∧ v.c = s.c ∧
    v.status = s.status.code ∧ ∀ a : Addr, v.memory[a.toNat]'a.isLt = s.mem.read a

/-- R104 (the spec's decision D5): from power-on, RESET and LOAD in either order, and then the first STEP fetches image byte 0
from address 0. -/
def Obligations.BootFetchesTheFirstImageByte : Prop :=
  ∀ (p : PowerOn) (img : Image), ∃ s rs rs' t,
    applyCommands [.reset, .load img] (State.powerOn p) = .next (s, rs) ∧
    applyCommands [.load img, .reset] (State.powerOn p) = .next (s, rs') ∧
    s.RegistersReset ∧ step s = .next t ∧ t.ir = img[0] ∧ t.pc.toNat = 1

/-! ### Encoding -/

/-- R48: decode(encode(i)) = i for every instruction, and the bytes are 0x0a, 0x1a, 0x2a, 0xE0 and 0xF0. -/
def Obligations.EncodedInstructionsDecodeBack : Prop :=
  ∀ i : Instr, decode (encode i) = .instr i ∧
    (encode i).toNat =
      match i with
      | .car a => a.toNat
      | .som a => 0x10 + a.toNat
      | .sub a => 0x20 + a.toNat
      | .sai => 0xE0
      | .par => 0xF0

/-- R45, R47: a byte that decodes to an instruction has that instruction's opcode, and it is the instruction's encoding but for
the ignored operand bits of SAI and PAR, which the encoder writes as 0. -/
def Obligations.DecodedBytesEncodeBack : Prop :=
  ∀ (b : Byte) (i : Instr), decode b = .instr i →
    i.wf = true ∧ (encode i).toNat / 16 = b.toNat / 16 ∧
    (encode i = b ∨ ((i = .sai ∨ i = .par) ∧ (encode i).toNat % 16 = 0))

/-- R44, the opcode map: the high nibble selects CAR, SOM, SUB, SAI, PAR or no instruction, the low nibble is the address. (The
counts "13 values" and "208 bytes" of R45 and R46 do not fit the range 0x3 to 0xD they stand beside; the range is stated,
log entry 12.) -/
def Obligations.OpcodeMapIsTheTable : Prop :=
  ∀ b : Byte,
    (b.toNat / 16 = 0x0 → decode b = .instr (.car (BitVec.ofNat 4 (b.toNat % 16)))) ∧
    (b.toNat / 16 = 0x1 → decode b = .instr (.som (BitVec.ofNat 4 (b.toNat % 16)))) ∧
    (b.toNat / 16 = 0x2 → decode b = .instr (.sub (BitVec.ofNat 4 (b.toNat % 16)))) ∧
    (b.toNat / 16 = 0xE → decode b = .instr .sai) ∧
    (b.toNat / 16 = 0xF → decode b = .instr .par) ∧
    (0x3 ≤ b.toNat / 16 ∧ b.toNat / 16 ≤ 0xD → decode b = .invalid (BitVec.ofNat 4 (b.toNat / 16)))

/-- Words written out from the format of R41 and the opcodes of R44 (spec/95_test_vectors.md 2.1). -/
def Obligations.WrittenOutWordsDecode : Prop :=
  decode 0b00001111#8 = .instr (.car 0xF#4) ∧ decode 0b00011010#8 = .instr (.som 0xA#4) ∧
  decode 0b00101010#8 = .instr (.sub 0xA#4) ∧ decode 0b11100000#8 = .instr .sai ∧ decode 0b11110000#8 = .instr .par ∧
  decode 0b01111100#8 = .invalid 0x7#4 ∧ decode 0b11011111#8 = .invalid 0xD#4

/-! ### The ALU -/

/-- R78, results by case: x + y, less 256 above 255; x - y, plus 256 below 0; and the same bit patterns serve two's-complement
operands, whose sum and difference wrap the same way. -/
def Obligations.AluResultsByCase : Prop :=
  ∀ x y : Byte,
    (x.toNat + y.toNat ≤ 255 → (aluAdd x y).toNat = x.toNat + y.toNat) ∧
    (255 < x.toNat + y.toNat → (aluAdd x y).toNat = x.toNat + y.toNat - 256) ∧
    (y.toNat ≤ x.toNat → (aluSub x y).toNat = x.toNat - y.toNat) ∧
    (x.toNat < y.toNat → (aluSub x y).toNat = x.toNat + 256 - y.toNat) ∧
    (aluAdd x y).toInt = (x.toInt + y.toInt).bmod 256 ∧ (aluSub x y).toInt = (x.toInt - y.toInt).bmod 256

/-! ### The execute phase: result, frame and completion of each instruction, for every state and operand -/

/-- R79, execute phase of CAR: AR and ACC are written, nothing else. -/
def Obligations.CarLoadsTheAccumulator : Prop :=
  ∀ (a : Addr) (s : State), ∃ t, exec (.car a) s = .next t ∧ t.ar = a ∧ t.acc = s.mem.read a ∧
    t.pc = s.pc ∧ t.ir = s.ir ∧ t.b = s.b ∧ t.out = s.out ∧ t.status = s.status ∧ SameFlags s t ∧ SameBytes s t

/-- R80, execute phase of SOM: AR, B and ACC are written, nothing else; ACC is the sum reduced modulo 256. -/
def Obligations.SomAddsToTheAccumulator : Prop :=
  ∀ (a : Addr) (s : State), ∃ t, exec (.som a) s = .next t ∧ t.ar = a ∧ t.b = s.mem.read a ∧
    t.acc.toNat = (s.acc.toNat + (s.mem.read a).toNat) % 256 ∧
    t.pc = s.pc ∧ t.ir = s.ir ∧ t.out = s.out ∧ t.status = s.status ∧ SameFlags s t ∧ SameBytes s t

/-- R81, execute phase of SUB: AR, B and ACC are written, nothing else; ACC is the difference reduced modulo 256. -/
def Obligations.SubSubtractsFromTheAccumulator : Prop :=
  ∀ (a : Addr) (s : State), ∃ t, exec (.sub a) s = .next t ∧ t.ar = a ∧ t.b = s.mem.read a ∧
    (t.acc.toNat : Int) = ((s.acc.toNat : Int) - ((s.mem.read a).toNat : Int)) % 256 ∧
    t.pc = s.pc ∧ t.ir = s.ir ∧ t.out = s.out ∧ t.status = s.status ∧ SameFlags s t ∧ SameBytes s t

/-- R83, execute phase of SAI: OUT is written, nothing else. -/
def Obligations.SaiCopiesTheAccumulatorToOut : Prop :=
  ∀ s : State, ∃ t, exec .sai s = .next t ∧ t.out = s.acc ∧
    t.acc = s.acc ∧ t.ar = s.ar ∧ t.pc = s.pc ∧ t.ir = s.ir ∧ t.b = s.b ∧ t.status = s.status ∧ SameFlags s t ∧
    SameBytes s t

/-- R84, execute phase of PAR: STATUS becomes HALTED, nothing else changes. -/
def Obligations.ParHaltsAndChangesNoRegister : Prop :=
  ∀ s : State, ∃ t, exec .par s = .next t ∧ t.status = .halted ∧
    t.acc = s.acc ∧ t.ar = s.ar ∧ t.pc = s.pc ∧ t.ir = s.ir ∧ t.b = s.b ∧ t.out = s.out ∧ SameFlags s t ∧
    SameBytes s t

/-! ### The whole STEP -/

/-- R67, R75: a STEP that fetches a byte which decodes to an instruction is that instruction's execute phase in the state after
the fetch (AR <- PC[3:0], PC <- PC + 1, IR <- the byte). -/
def Obligations.StepRunsTheDecodedInstruction : Prop :=
  ∀ (s : State) (i : Instr), s.Fetches → decode s.nextByte = .instr i →
    step s = exec i { s with ar := s.pcAddr, pc := s.pc + 1#5, ir := s.nextByte }

/-- R72, R73: every STEP that passes the overflow check, whatever the opcode, leaves PC one higher (1 to 16, never 0), and IR
holds the byte at the instruction's own address. -/
def Obligations.EveryFetchIncrementsPcAndLoadsIr : Prop :=
  ∀ s : State, s.Fetches → ∃ t, step s = .next t ∧
    t.pc.toNat = s.pc.toNat + 1 ∧ t.pc.toNat ≤ 16 ∧ t.ir = s.byteAtPc

/-- R79, the whole STEP on a byte 0x00 to 0x0F. -/
def Obligations.StepOnCarByte : Prop :=
  ∀ s : State, s.Fetches → s.byteAtPc.toNat / 16 = 0x0 → ∃ t, step s = .next t ∧
    t.ar.toNat = s.byteAtPc.toNat % 16 ∧ t.acc = s.mem.byteAt (s.byteAtPc.toNat % 16) ∧
    t.pc.toNat = s.pc.toNat + 1 ∧ t.ir = s.byteAtPc ∧ t.b = s.b ∧ t.out = s.out ∧
    t.status = .ready ∧ t.stepOutcome = .continued ∧ SameFlags s t ∧ SameBytes s t

/-- R80, the whole STEP on a byte 0x10 to 0x1F. -/
def Obligations.StepOnSomByte : Prop :=
  ∀ s : State, s.Fetches → s.byteAtPc.toNat / 16 = 0x1 → ∃ t, step s = .next t ∧
    t.ar.toNat = s.byteAtPc.toNat % 16 ∧ t.b = s.mem.byteAt (s.byteAtPc.toNat % 16) ∧
    t.acc.toNat = (s.acc.toNat + (s.mem.byteAt (s.byteAtPc.toNat % 16)).toNat) % 256 ∧
    t.pc.toNat = s.pc.toNat + 1 ∧ t.ir = s.byteAtPc ∧ t.out = s.out ∧
    t.status = .ready ∧ t.stepOutcome = .continued ∧ SameFlags s t ∧ SameBytes s t

/-- R81, the whole STEP on a byte 0x20 to 0x2F. -/
def Obligations.StepOnSubByte : Prop :=
  ∀ s : State, s.Fetches → s.byteAtPc.toNat / 16 = 0x2 → ∃ t, step s = .next t ∧
    t.ar.toNat = s.byteAtPc.toNat % 16 ∧ t.b = s.mem.byteAt (s.byteAtPc.toNat % 16) ∧
    (t.acc.toNat : Int) = ((s.acc.toNat : Int) - ((s.mem.byteAt (s.byteAtPc.toNat % 16)).toNat : Int)) % 256 ∧
    t.pc.toNat = s.pc.toNat + 1 ∧ t.ir = s.byteAtPc ∧ t.out = s.out ∧
    t.status = .ready ∧ t.stepOutcome = .continued ∧ SameFlags s t ∧ SameBytes s t

/-- R83, the whole STEP on a byte 0xE0 to 0xEF: AR keeps the SAI's own address. -/
def Obligations.StepOnSaiByte : Prop :=
  ∀ s : State, s.Fetches → s.byteAtPc.toNat / 16 = 0xE → ∃ t, step s = .next t ∧ t.out = s.acc ∧
    t.ar.toNat = s.pc.toNat ∧ t.pc.toNat = s.pc.toNat + 1 ∧ t.ir = s.byteAtPc ∧ t.acc = s.acc ∧ t.b = s.b ∧
    t.status = .ready ∧ t.stepOutcome = .continued ∧ SameFlags s t ∧ SameBytes s t

/-- R84, the whole STEP on a byte 0xF0 to 0xFF, at address 0xF too (PC = 16 and still HALTED). That a further STEP does nothing,
where the host breaks its duty not to give one, rests on the spec's decision D3 (R91) and on the model's reading of
STEP_AFTER_TERMINAL, log entry 4 (DESIGN CHOICE). -/
def Obligations.StepOnParByte : Prop :=
  ∀ s : State, s.Fetches → s.byteAtPc.toNat / 16 = 0xF → ∃ t, step s = .next t ∧
    t.status = .halted ∧ t.stepOutcome = .halted ∧ step t = .next t ∧
    t.ar.toNat = s.pc.toNat ∧ t.pc.toNat = s.pc.toNat + 1 ∧ t.ir = s.byteAtPc ∧
    t.acc = s.acc ∧ t.b = s.b ∧ t.out = s.out ∧ SameFlags s t ∧ SameBytes s t

/-! ### Execution errors and the latch -/

/-- R70: with PC >= 16 (17 to 31 too, which no run reaches) the STEP sets STATUS to FAULT_PC_OVERFLOW, returns ERR_PC_OVERFLOW
and changes nothing else. -/
def Obligations.PcOverflowChangesOnlyStatus : Prop :=
  ∀ s : State, s.resetSeen = true → s.status = .ready → 16 ≤ s.pc.toNat →
    ∃ t, step s = .next t ∧ t = { s with status := .faultPcOverflow } ∧ t.stepOutcome = .errPcOverflow

/-- R86 (the carried value is the spec's decision D4): a byte 0x30 to 0xDF leaves the state as after the fetch, with STATUS
FAULT_INVALID_OPCODE and the opcode as the reported value. -/
def Obligations.InvalidOpcodeLeavesTheFetchedState : Prop :=
  ∀ s : State, s.Fetches → 0x3 ≤ s.byteAtPc.toNat / 16 → s.byteAtPc.toNat / 16 ≤ 0xD → ∃ t, step s = .next t ∧
    t.status = .faultInvalidOpcode ∧ t.stepOutcome = .errInvalidOpcode (BitVec.ofNat 4 (s.byteAtPc.toNat / 16)) ∧
    t.ar.toNat = s.pc.toNat ∧ t.pc.toNat = s.pc.toNat + 1 ∧ t.ir = s.byteAtPc ∧
    t.acc = s.acc ∧ t.b = s.b ∧ t.out = s.out ∧ SameFlags s t ∧ SameBytes s t

/-- R91 (the spec's decision D3; the parameter STEP_AFTER_TERMINAL, log entry 4): a STEP while STATUS is not READY changes no
state and returns the latched outcome again. -/
def Obligations.LatchedStepReturnsTheSameOutcome : Prop :=
  ∀ s : State, s.resetSeen = true →
    (s.status = .halted → applyCommand .step s = .next (s, .outcome .halted)) ∧
    (s.status = .faultInvalidOpcode → applyCommand .step s = .next (s, .outcome (.errInvalidOpcode (opcodeOf s.ir)))) ∧
    (s.status = .faultPcOverflow → applyCommand .step s = .next (s, .outcome .errPcOverflow))

/-- R92: from a terminal outcome no sequence of commands without RESET changes a register or STATUS, and a RESET after it gives
READY and every register 0. That every STEP in the sequence is answered, and with the latched outcome, rests on the spec's
decision D3 (R91) and on the model's reading of STEP_AFTER_TERMINAL, log entry 4 (DESIGN CHOICE). -/
def Obligations.OnlyResetLeavesATerminalOutcome : Prop :=
  ∀ (ks : List Command) (s : State), s.resetSeen = true → s.status ≠ .ready → Command.reset ∉ ks →
    ∃ t rs, applyCommands ks s = .next (t, rs) ∧ t = { s with mem := t.mem } ∧
      (∀ o, Response.outcome o ∈ rs → o = s.stepOutcome) ∧ (applyReset t).RegistersReset

/-- R85 (codes: the spec's decision D3): every STEP after a RESET answers a next state, its outcome's code is the STATUS it leaves,
and a STEP that fetches returns CONTINUE, HALTED or the error that the fetched opcode calls for. -/
def Obligations.EveryStepReturnsOneOfFourOutcomes : Prop :=
  ∀ s : State, s.resetSeen = true → ∃ t, step s = .next t ∧ t.stepOutcome.code = t.status.code ∧
    (s.Fetches →
      (t.stepOutcome = .continued ↔ s.byteAtPc.toNat / 16 ∈ [0x0, 0x1, 0x2, 0xE]) ∧
      (t.stepOutcome = .halted ↔ s.byteAtPc.toNat / 16 = 0xF) ∧
      ((∃ op, t.stepOutcome = .errInvalidOpcode op) ↔ 0x3 ≤ s.byteAtPc.toNat / 16 ∧ s.byteAtPc.toNat / 16 ≤ 0xD) ∧
      t.stepOutcome ≠ .errPcOverflow)

/-! ### Rules about the whole machine -/

/-- R20: Z and C are 0 after construction and after RESET and stay 0 under every command; no instruction writes them, in any
state; and none reads them: other flag values change the flags of the result and nothing else. -/
def Obligations.FlagsAreInert : Prop :=
  (∀ p : PowerOn, (State.powerOn p).flagsClear = true) ∧ (∀ s : State, (applyReset s).flagsClear = true) ∧
  (∀ (ks : List Command) (s t : State) (rs : List Response),
    applyCommands ks s = .next (t, rs) → s.flagsClear = true → t.flagsClear = true) ∧
  (∀ (i : Instr) (s t : State), exec i s = .next t → t.z = s.z ∧ t.c = s.c) ∧
  (∀ (s : State) (z c : BitVec 1),
    step { s with z := z, c := c } = mapNext (fun t => { t with z := z, c := c }) (step s))

/-- R30: no instruction and no sequence of STEPs changes any byte of M. -/
def Obligations.MemoryIsReadOnlyToTheCore : Prop :=
  (∀ (i : Instr) (s t : State), exec i s = .next t → SameBytes s t) ∧
  (∀ (n : Nat) (s t : State), stepTimes n s = .next t → t.mem = s.mem ∧ SameBytes s t)

/-- R24, write sets (the spec's derivation): ACC changes only in a STEP that fetches CAR, SOM or SUB, B only in SOM or SUB, OUT only
in SAI, and PC, AR and IR only in a STEP that fetches. STATUS (the spec's latch, D3) changes only in a STEP from READY, and only
in one that fails the overflow check, fetches a PAR or fetches an invalid opcode, to the value the table gives for it. -/
def Obligations.StepsWriteOnlyTheirSets : Prop :=
  ∀ s t : State, step s = .next t →
    (t.acc ≠ s.acc → s.Fetches ∧ s.byteAtPc.toNat / 16 ∈ [0x0, 0x1, 0x2]) ∧
    (t.b ≠ s.b → s.Fetches ∧ s.byteAtPc.toNat / 16 ∈ [0x1, 0x2]) ∧
    (t.out ≠ s.out → s.Fetches ∧ s.byteAtPc.toNat / 16 = 0xE) ∧
    ((t.pc ≠ s.pc ∨ t.ar ≠ s.ar ∨ t.ir ≠ s.ir) → s.Fetches) ∧
    (t.status ≠ s.status → s.resetSeen = true ∧ s.status = .ready ∧
      ((16 ≤ s.pc.toNat ∧ t.status = .faultPcOverflow) ∨
       (s.Fetches ∧ s.byteAtPc.toNat / 16 = 0xF ∧ t.status = .halted) ∨
       (s.Fetches ∧ 0x3 ≤ s.byteAtPc.toNat / 16 ∧ s.byteAtPc.toNat / 16 ≤ 0xD ∧ t.status = .faultInvalidOpcode))) ∧
    SameFlags s t ∧ SameBytes s t

/-- R24, read sets (the spec's derivation): two STEPs that fetch with the same PC, ACC and memory bytes agree on everything they
write, whatever AR, IR, B, OUT and the flags hold before. -/
def Obligations.StepsReadOnlyPcAccAndMemory : Prop :=
  ∀ s t : State, s.Fetches → t.Fetches → s.pc = t.pc → s.acc = t.acc → SameBytes s t →
    ∃ s' t', step s = .next s' ∧ step t = .next t' ∧
      s'.pc = t'.pc ∧ s'.acc = t'.acc ∧ s'.ar = t'.ar ∧ s'.ir = t'.ir ∧ s'.status = t'.status ∧
      (s'.b = t'.b ∨ (s'.b = s.b ∧ t'.b = t.b ∧ s.byteAtPc.toNat / 16 ∉ [0x1, 0x2])) ∧
      (s'.out = t'.out ∨ (s'.out = s.out ∧ t'.out = t.out ∧ s.byteAtPc.toNat / 16 ≠ 0xE))

/-- R47: with any operand bits, SAI and PAR execute exactly as with the operand bits 0: under another memory whose byte at PC has
the same opcode 0xE or 0xF, the STEP gives the same state but for IR, which holds that byte, and the memory itself. -/
def Obligations.IgnoredOperandBitsHaveNoEffect : Prop :=
  ∀ (s : State) (m : Memory), s.Fetches →
    (s.byteAtPc.toNat / 16 = 0xE ∨ s.byteAtPc.toNat / 16 = 0xF) →
    (m.byteAt s.pc.toNat).toNat / 16 = s.byteAtPc.toNat / 16 →
    ∃ t, step s = .next t ∧ step { s with mem := m } = .next { t with ir := m.byteAt s.pc.toNat, mem := m }

/-- R76: no instruction writes PC; a STEP that passes the check leaves PC one higher; from RESET, after k STEPs that did not end
the run, PC is k, and the STEP after those fetches the byte at address k. -/
def Obligations.ControlFlowIsStrictlySequential : Prop :=
  (∀ (i : Instr) (s t : State), exec i s = .next t → t.pc = s.pc) ∧
  (∀ s t : State, s.Fetches → step s = .next t → t.pc.toNat = s.pc.toNat + 1) ∧
  (∀ (k : Nat) (s t : State), stepTimes k (applyReset s) = .next t → t.status = .ready →
    t.pc.toNat = k ∧
    (k < 16 → ∃ u, stepTimes (k + 1) (applyReset s) = .next u ∧ u.ir = s.mem.byteAt k ∧ u.pc.toNat = k + 1))

/-- R77 (the spec's derivation): from RESET, the run ends at the first PAR or invalid opcode, with HALTED or ERR_INVALID_OPCODE
carrying the 4-bit opcode (the spec's decision D4); without one, 16 STEPs leave PC = 16 and the 17th fails with ERR_PC_OVERFLOW and changes only STATUS. -/
def Obligations.RunFromResetEndsAtTheFirstEndingByte : Prop :=
  ∀ s : State,
    (∀ k : Nat, k < 16 → endsRun (s.mem.byteAt k) = true → (∀ j : Nat, j < k → endsRun (s.mem.byteAt j) = false) →
      ∃ t, stepTimes (k + 1) (applyReset s) = .next t ∧ t.pc.toNat = k + 1 ∧ t.ir = s.mem.byteAt k ∧
        t.stepOutcome = if opcodeOf (s.mem.byteAt k) = 0xF#4 then .halted
                        else .errInvalidOpcode (opcodeOf (s.mem.byteAt k))) ∧
    ((∀ j : Nat, j < 16 → endsRun (s.mem.byteAt j) = false) →
      ∃ t, stepTimes 16 (applyReset s) = .next t ∧ t.pc.toNat = 16 ∧ t.status = .ready ∧
        stepTimes 17 (applyReset s) = .next { t with status := .faultPcOverflow })

/-- R105, R106 (the mapping is the spec's decision D15): after a RESET, a RUN from any state returns within 17 STEPs; it stops at
the first STEP that is not CONTINUE and returns that outcome's result; begun with STATUS latched it returns at once. -/
def Obligations.RunReturnsWithinSeventeenSteps : Prop :=
  ∀ s : State, s.resetSeen = true → ∃ r t n, run s = .returned r t n ∧ 1 ≤ n ∧ n ≤ 17 ∧ stepTimes n s = .next t ∧
    (∀ m : Nat, 1 ≤ m → m < n → ∃ u, stepTimes m s = .next u ∧ u.stepOutcome = .continued) ∧
    ((t.stepOutcome = .halted ∧ r = .ok .explicitHalt) ∨
     (t.stepOutcome = .errPcOverflow ∧ r = .ok .programCounterOverflow) ∨
     (∃ v, t.stepOutcome = .errInvalidOpcode v ∧ r = .err (.invalidOpcode v))) ∧
    (s.status ≠ .ready → n = 1 ∧ t = s)

/-- R67, R69 (the phases are the spec's own, D7): the control unit, taken phase by phase from IDLE back to IDLE, ends in exactly the
state the STEP answers, and it refuses exactly where the STEP refuses. -/
def Obligations.PhasesRefineTheStep : Prop :=
  ∀ s : State,
    (∀ t, step s = .next t ↔ stepByPhases s = .next ⟨.idle, t⟩) ∧
    (∀ r, step s = .refused r ↔ stepByPhases s = .refused r)

/-! ### The invariant -/

/-- The invariant holds at reset (R25, R14, R20). -/
def Obligations.InvariantHoldsAtReset : Prop := State.reset.Inv

/-- Every STEP from a state with the invariant keeps it: memory canonical, PC 0 to 16, Z = C = 0, and each terminal STATUS with
the state its outcome leaves (R14, R20, R84, R86, R87). -/
def Obligations.StepKeepsTheInvariant : Prop :=
  ∀ s t : State, s.Inv → step s = .next t → t.Inv

/-- RESET gives the invariant to any machine whose memory is in canonical form, one at power-on too, and every command sequence
keeps it (R26, R29, R100). -/
def Obligations.ResetEstablishesAndCommandsKeepTheInvariant : Prop :=
  (∀ s : State, s.mem.wf = true → (applyReset s).Inv) ∧ (∀ p : PowerOn, (applyReset (State.powerOn p)).Inv) ∧
  (∀ (ks : List Command) (s t : State) (rs : List Response), s.Inv → applyCommands ks s = .next (t, rs) → t.Inv)

/-! ### The assembler -/

/-- R51 (the grammar is the spec's decision D9): a hex-number token is an optional sign, an optional 0x or 0X, and one or more hex
digits, its value the signed number they spell; a token of no such form is malformed. -/
def Obligations.HexNumberTokensFollowTheGrammar : Prop :=
  (∀ sign pre digits : List Char, sign ∈ [[], ['+'], ['-']] → pre ∈ [[], ['0', 'x'], ['0', 'X']] → digits ≠ [] →
    (∀ ch ∈ digits, ch ∈ hexDigits) →
    hexNumber (sign ++ pre ++ digits) = some (signedValue sign (spelledValue 16 digits))) ∧
  (∀ token : List Char, (hexNumber token).isSome = true → ∃ sign pre digits : List Char,
    sign ∈ [[], ['+'], ['-']] ∧ pre ∈ [[], ['0', 'x'], ['0', 'X']] ∧ digits ≠ [] ∧ (∀ ch ∈ digits, ch ∈ hexDigits) ∧
    token = sign ++ pre ++ digits)

/-- R52 (the grammar is the spec's decision D9): a dec-number token is an optional sign and one or more decimal digits. -/
def Obligations.DecNumberTokensFollowTheGrammar : Prop :=
  (∀ sign digits : List Char, sign ∈ [[], ['+'], ['-']] → digits ≠ [] → (∀ ch ∈ digits, ch ∈ decDigits) →
    decNumber (sign ++ digits) = some (signedValue sign (spelledValue 10 digits))) ∧
  (∀ token : List Char, (decNumber token).isSome = true → ∃ sign digits : List Char,
    sign ∈ [[], ['+'], ['-']] ∧ digits ≠ [] ∧ (∀ ch ∈ digits, ch ∈ decDigits) ∧ token = sign ++ digits)

/-- R56: what stands on a line from a semicolon on has no effect. -/
def Obligations.CommentsHaveNoEffect : Prop :=
  ∀ (line comment : List Char) (st : AsmState), asmLine (line ++ ';' :: comment) st = asmLine line st

/-- R49, R51: the case of ASCII letters has no effect, in mnemonics, directives, the prefix 0x and hex digits (letters outside
ASCII: log entry 10). -/
def Obligations.LetterCaseHasNoEffect : Prop :=
  ∀ src : List Char, assemble (src.map upperAscii) = assemble src

/-- R53: assemble gives an image exactly if every line is valid in turn, and then the image of the state the last line leaves;
wherever all lines before a failing line are valid it gives that line's error, with its 1-based number and kind; and it gives
no other error. -/
def Obligations.AssembleReturnsAnImageOrTheFirstError : Prop :=
  (∀ (n : Nat) (lines : List (List Char)) (st st' : AsmState), asmLines n lines st = .ok st' ↔ ValidLines lines st st') ∧
  ∀ src : List Char,
    (∀ img : Image, assemble src = .ok img ↔
      ∃ st, asmLines 1 (sourceLines src) AsmState.initial = .ok st ∧ img = st.image) ∧
    (∀ (before after : List (List Char)) (line : List Char) (st : AsmState) (k : AsmErrorKind),
      sourceLines src = before ++ line :: after → asmLines 1 before AsmState.initial = .ok st → asmLine line st = .error k →
      assemble src = .error ⟨before.length + 1, k⟩) ∧
    (∀ e : AsmError, assemble src = .error e →
      ∃ (before after : List (List Char)) (line : List Char) (st : AsmState),
        sourceLines src = before ++ line :: after ∧ e.line = before.length + 1 ∧
        asmLines 1 before AsmState.initial = .ok st ∧ asmLine line st = .error e.kind)

/-- R66: every image assemble returns has, at each byte last written by the instruction write-pointer, an opcode of the five, with
operand 0 for SAI and PAR; every byte is 0 to 255; and the final ip and dp are at most 16. Which pointer wrote a byte last is
read off the model's own record writers, log entry 13 (DESIGN CHOICE). -/
def Obligations.AssembledImagesAreWellFormed : Prop :=
  ∀ (src : List Char) (img : Image), assemble src = .ok img → ∃ st, assembleState src = .ok st ∧ st.image = img ∧
    img.toList.length = 16 ∧ st.ip ≤ 16 ∧ st.dp ≤ 16 ∧
    ∀ (i : Nat) (h : i < 16),
      img[i].toNat ≤ 255 ∧
      (st.writers[i] = some .instruction →
        img[i].toNat / 16 ∈ [0x0, 0x1, 0x2, 0xE, 0xF] ∧ (0xE ≤ img[i].toNat / 16 → img[i].toNat % 16 = 0))

/-- R63: bytes that no line wrote are 0x00, and a source with no statement at all yields 16 zero bytes. The fill 0x00 is the
spec's own choice (R54, D8; log entry 11), and that no line wrote a byte is read off the model's own record writers, log
entry 13 (DESIGN CHOICE). -/
def Obligations.UnwrittenImageBytesAreZero : Prop :=
  (∀ (src : List Char) (st : AsmState), assembleState src = .ok st →
    assemble src = .ok st.image ∧ ∀ (i : Nat) (h : i < 16), st.writers[i] = none → st.image[i] = 0x00#8) ∧
  (∀ src : List Char, (∀ line ∈ sourceLines src, lineTokens line = []) →
    assemble src = .ok (Vector.replicate 16 0x00#8))

/-- R60 (its checks' order is the spec's decision D11): a CAR, SOM or SUB line with one hex token of value 0 to 15 writes
(opcode << 4) | a at ip, advances ip and leaves dp and every other byte; at ip >= 16 it fails with MemoryOverflow. -/
def Obligations.AddressedLinesWriteTheirByteAtIp : Prop :=
  ∀ (k : Keyword) (opcode a : Nat) (first token : List Char) (st : AsmState),
    (k, opcode) ∈ [(Keyword.car, 0x0), (Keyword.som, 0x1), (Keyword.sub, 0x2)] → keywordOf first = some k →
    hexNumber token = some (a : Int) → a ≤ 15 →
    (st.ip < 16 → ∃ st', asmTokens [first, token] st = .ok st' ∧ st'.ip = st.ip + 1 ∧ st'.dp = st.dp ∧
      st'.orgSeen = st.orgSeen ∧
      ∀ (i : Nat) (h : i < 16), (i = st.ip → st'.image[i].toNat = opcode * 16 + a) ∧ (i ≠ st.ip → st'.image[i] = st.image[i])) ∧
    (16 ≤ st.ip → asmTokens [first, token] st = .error .memoryOverflow)

/-- R61: a SAI or PAR line with no operand writes 0xE0 or 0xF0 at ip, advances ip and leaves dp and every other byte; at ip >= 16 it
fails with MemoryOverflow; any operand token gives UnexpectedOperand first. -/
def Obligations.PlainLinesWriteTheirByteAtIp : Prop :=
  ∀ (k : Keyword) (opcode : Nat) (first : List Char) (operands : List (List Char)) (st : AsmState),
    (k, opcode) ∈ [(Keyword.sai, 0xE), (Keyword.par, 0xF)] → keywordOf first = some k →
    (operands ≠ [] → asmTokens (first :: operands) st = .error .unexpectedOperand) ∧
    (operands = [] → 16 ≤ st.ip → asmTokens [first] st = .error .memoryOverflow) ∧
    (operands = [] → st.ip < 16 → ∃ st', asmTokens [first] st = .ok st' ∧ st'.ip = st.ip + 1 ∧ st'.dp = st.dp ∧
      ∀ (i : Nat) (h : i < 16), (i = st.ip → st'.image[i].toNat = opcode * 16) ∧ (i ≠ st.ip → st'.image[i] = st.image[i]))

/-- R57, R58 (token counts and the order of checks: the spec's decisions D10, D11): a DB line with one decimal token of value 0 to
255 fails with DbWithoutOrg before any ORG, then with MemoryOverflow at dp >= 16, and else writes the value at dp and advances dp;
an ORG line with a hex token of value 0 to 15 sets dp. Neither moves ip. -/
def Obligations.DirectiveLinesUseTheDataPointer : Prop :=
  (∀ (first token : List Char) (v : Nat) (st : AsmState), keywordOf first = some .db → decNumber token = some (v : Int) →
    v ≤ 255 →
    (st.orgSeen = false → asmTokens [first, token] st = .error .dbWithoutOrg) ∧
    (st.orgSeen = true → 16 ≤ st.dp → asmTokens [first, token] st = .error .memoryOverflow) ∧
    (st.orgSeen = true → st.dp < 16 → ∃ st', asmTokens [first, token] st = .ok st' ∧ st'.dp = st.dp + 1 ∧ st'.ip = st.ip ∧
      ∀ (i : Nat) (h : i < 16), (i = st.dp → st'.image[i].toNat = v) ∧ (i ≠ st.dp → st'.image[i] = st.image[i]))) ∧
  (∀ (first token : List Char) (a : Nat) (st : AsmState), keywordOf first = some .org → hexNumber token = some (a : Int) →
    a ≤ 15 → ∃ st', asmTokens [first, token] st = .ok st' ∧ st'.dp = a ∧ st'.orgSeen = true ∧ st'.ip = st.ip ∧
      st'.image = st.image)

/-- R59: a line whose first token, in any letter case, is not one of the two directives and five mnemonics fails with
UnknownMnemonic, and only such a line does. That case means ASCII case (upperAscii) is the model's choice, log entry 10
(DESIGN CHOICE, unsafe for letters outside ASCII). -/
def Obligations.OnlyUnknownFirstTokensAreUnknownMnemonics : Prop :=
  ∀ (first : List Char) (operands : List (List Char)) (st : AsmState),
    asmTokens (first :: operands) st = .error .unknownMnemonic ↔
      first.map upperAscii ∉
        [['O', 'R', 'G'], ['D', 'B'], ['C', 'A', 'R'], ['S', 'O', 'M'], ['S', 'U', 'B'], ['S', 'A', 'I'], ['P', 'A', 'R']]

/-- R57, R58, R60, R64 (kinds and order: the spec's decisions D10, D11): the operand errors of a line that takes one operand, in any
state: no token, more than one, a malformed number, a value out of range. -/
def Obligations.OperandErrorsComeFirst : Prop :=
  ∀ (k : Keyword) (first : List Char) (st : AsmState), keywordOf first = some k → k ≠ .sai → k ≠ .par →
    asmTokens [first] st = .error .missingOperand ∧
    (∀ t u rest, asmTokens (first :: t :: u :: rest) st = .error .unexpectedOperand) ∧
    (k ≠ .db → ∀ t, hexNumber t = none → asmTokens [first, t] st = .error .malformedNumber) ∧
    (k ≠ .db → ∀ t v, hexNumber t = some v → (v < 0 ∨ 15 < v) → asmTokens [first, t] st = .error .operandOutOfRange) ∧
    (k = .db → ∀ t, decNumber t = none → asmTokens [first, t] st = .error .malformedNumber) ∧
    (k = .db → ∀ t v, decNumber t = some v → (v < 0 ∨ 255 < v) → asmTokens [first, t] st = .error .invalidDbValue)

/-- R55 (the spec's decision D12): the lines are the text between the line feeds, each once and in order, the text after the last
line feed too. -/
def Obligations.LinesAreTheTextBetweenLineFeeds : Prop :=
  ∀ src : List Char, ((sourceLines src).intersperse ['\n']).flatten = src ∧ ∀ line ∈ sourceLines src, '\n' ∉ line
end

