-- ==== Sys2Proof/Laws/Assembler.lean ====
section
/-! SUPPORT. The shared operations of the assembler, each said once (spec/30_encoding.md). -/

namespace Sys2Proof.Machine

/-- Everything the emission of an instruction can do: MemoryOverflow at ip >= 16, else the byte at ip and ip + 1 (R60, R61). -/
theorem emitInstr_cases (i : Instr) (st : AsmState) :
    (16 ≤ st.ip ∧ emitInstr i st = .error .memoryOverflow) ∨
    (st.ip < 16 ∧ emitInstr i st = .ok { st.put st.ip (encode i) .instruction with ip := st.ip + 1 }) := by
  unfold emitInstr
  split_ifs with h
  · exact .inl ⟨h, rfl⟩
  · exact .inr ⟨by omega, rfl⟩

/-- If an address operand is accepted, it is one hex token whose value is 0 to 15 (R57, R60). -/
theorem addressOperand_ok {operands : List (List Char)} {v : Nat} (h : addressOperand operands = .ok v) :
    v < 16 ∧ ∃ t, operands = [t] ∧ hexNumber t = some (v : Int) := by
  rcases operands with - | ⟨t, - | ⟨u, rest⟩⟩ <;> simp only [addressOperand, oneOperand] at h
  · cases h
  · cases hn : hexNumber t with
    | none => simp [hn] at h
    | some n =>
      simp only [hn, addressInRange, Bool.and_eq_true, decide_eq_true_eq] at h
      split_ifs at h with hr
      simp only [Except.ok.injEq] at h
      refine ⟨by omega, t, rfl, ?_⟩
      rw [hn, ← h]
      congr 1
      omega
  · cases h

/-- A split text has at least one piece. -/
theorem splitWhere_ne_nil (p : Char → Bool) (text : List Char) : splitWhere p text ≠ [] := by
  cases text with
  | nil => simp [splitWhere]
  | cons ch rest =>
    simp only [splitWhere]
    split_ifs
    · simp
    · cases splitWhere p rest <;> simp

/-- No line at all is valid and leaves the state as it is. -/
@[simp] theorem validLines_nil (st st' : AsmState) : ValidLines [] st st' ↔ st' = st := Iff.rfl

/-- The first line is valid and so are the rest, from the state it leaves. -/
@[simp] theorem validLines_cons (line : List Char) (rest : List (List Char)) (st st' : AsmState) :
    ValidLines (line :: rest) st st' ↔ ∃ u, asmLine line st = .ok u ∧ ValidLines rest u st' := Iff.rfl

/-- Lines in two parts: the second part runs on from the state and the line number that the first leaves; an error in the
first part aborts (R53, R55). -/
theorem asmLines_append (n : Nat) (before after : List (List Char)) (st : AsmState) :
    asmLines n (before ++ after) st =
      match asmLines n before st with
      | .ok u => asmLines (n + before.length) after u
      | .error e => .error e := by
  induction before generalizing n st with
  | nil => rfl
  | cons line rest ih =>
    cases h : asmLine line st with
    | error k => simp [asmLines, h]
    | ok u => simp [asmLines, h, ih, Nat.add_comm, Nat.add_left_comm]

end Sys2Proof.Machine
end

