-- ==== Sys2Proof/Laws/State.lean ====
section
/-! SUPPORT. One lemma per field per register write (spec/00_scope.md R9), true by rfl: no later proof unfolds a record update.
Then the same for RESET, LOAD and the fetch sub-steps. -/

namespace Sys2Proof.Machine

/-! ### PC <- v -/

@[simp] theorem State.setPc_pc (s : State) (v : PcWord) : (s.setPc v).pc = v := rfl
@[simp] theorem State.setPc_acc (s : State) (v : PcWord) : (s.setPc v).acc = s.acc := rfl
@[simp] theorem State.setPc_ar (s : State) (v : PcWord) : (s.setPc v).ar = s.ar := rfl
@[simp] theorem State.setPc_ir (s : State) (v : PcWord) : (s.setPc v).ir = s.ir := rfl
@[simp] theorem State.setPc_b (s : State) (v : PcWord) : (s.setPc v).b = s.b := rfl
@[simp] theorem State.setPc_out (s : State) (v : PcWord) : (s.setPc v).out = s.out := rfl
@[simp] theorem State.setPc_z (s : State) (v : PcWord) : (s.setPc v).z = s.z := rfl
@[simp] theorem State.setPc_c (s : State) (v : PcWord) : (s.setPc v).c = s.c := rfl
@[simp] theorem State.setPc_status (s : State) (v : PcWord) : (s.setPc v).status = s.status := rfl
@[simp] theorem State.setPc_mem (s : State) (v : PcWord) : (s.setPc v).mem = s.mem := rfl
@[simp] theorem State.setPc_resetSeen (s : State) (v : PcWord) : (s.setPc v).resetSeen = s.resetSeen := rfl

/-! ### ACC <- v -/

@[simp] theorem State.setAcc_pc (s : State) (v : Byte) : (s.setAcc v).pc = s.pc := rfl
@[simp] theorem State.setAcc_acc (s : State) (v : Byte) : (s.setAcc v).acc = v := rfl
@[simp] theorem State.setAcc_ar (s : State) (v : Byte) : (s.setAcc v).ar = s.ar := rfl
@[simp] theorem State.setAcc_ir (s : State) (v : Byte) : (s.setAcc v).ir = s.ir := rfl
@[simp] theorem State.setAcc_b (s : State) (v : Byte) : (s.setAcc v).b = s.b := rfl
@[simp] theorem State.setAcc_out (s : State) (v : Byte) : (s.setAcc v).out = s.out := rfl
@[simp] theorem State.setAcc_z (s : State) (v : Byte) : (s.setAcc v).z = s.z := rfl
@[simp] theorem State.setAcc_c (s : State) (v : Byte) : (s.setAcc v).c = s.c := rfl
@[simp] theorem State.setAcc_status (s : State) (v : Byte) : (s.setAcc v).status = s.status := rfl
@[simp] theorem State.setAcc_mem (s : State) (v : Byte) : (s.setAcc v).mem = s.mem := rfl
@[simp] theorem State.setAcc_resetSeen (s : State) (v : Byte) : (s.setAcc v).resetSeen = s.resetSeen := rfl

/-! ### AR <- v -/

@[simp] theorem State.setAr_pc (s : State) (v : Addr) : (s.setAr v).pc = s.pc := rfl
@[simp] theorem State.setAr_acc (s : State) (v : Addr) : (s.setAr v).acc = s.acc := rfl
@[simp] theorem State.setAr_ar (s : State) (v : Addr) : (s.setAr v).ar = v := rfl
@[simp] theorem State.setAr_ir (s : State) (v : Addr) : (s.setAr v).ir = s.ir := rfl
@[simp] theorem State.setAr_b (s : State) (v : Addr) : (s.setAr v).b = s.b := rfl
@[simp] theorem State.setAr_out (s : State) (v : Addr) : (s.setAr v).out = s.out := rfl
@[simp] theorem State.setAr_z (s : State) (v : Addr) : (s.setAr v).z = s.z := rfl
@[simp] theorem State.setAr_c (s : State) (v : Addr) : (s.setAr v).c = s.c := rfl
@[simp] theorem State.setAr_status (s : State) (v : Addr) : (s.setAr v).status = s.status := rfl
@[simp] theorem State.setAr_mem (s : State) (v : Addr) : (s.setAr v).mem = s.mem := rfl
@[simp] theorem State.setAr_resetSeen (s : State) (v : Addr) : (s.setAr v).resetSeen = s.resetSeen := rfl

/-! ### IR <- v -/

@[simp] theorem State.setIr_pc (s : State) (v : Byte) : (s.setIr v).pc = s.pc := rfl
@[simp] theorem State.setIr_acc (s : State) (v : Byte) : (s.setIr v).acc = s.acc := rfl
@[simp] theorem State.setIr_ar (s : State) (v : Byte) : (s.setIr v).ar = s.ar := rfl
@[simp] theorem State.setIr_ir (s : State) (v : Byte) : (s.setIr v).ir = v := rfl
@[simp] theorem State.setIr_b (s : State) (v : Byte) : (s.setIr v).b = s.b := rfl
@[simp] theorem State.setIr_out (s : State) (v : Byte) : (s.setIr v).out = s.out := rfl
@[simp] theorem State.setIr_z (s : State) (v : Byte) : (s.setIr v).z = s.z := rfl
@[simp] theorem State.setIr_c (s : State) (v : Byte) : (s.setIr v).c = s.c := rfl
@[simp] theorem State.setIr_status (s : State) (v : Byte) : (s.setIr v).status = s.status := rfl
@[simp] theorem State.setIr_mem (s : State) (v : Byte) : (s.setIr v).mem = s.mem := rfl
@[simp] theorem State.setIr_resetSeen (s : State) (v : Byte) : (s.setIr v).resetSeen = s.resetSeen := rfl

/-! ### B <- v -/

@[simp] theorem State.setB_pc (s : State) (v : Byte) : (s.setB v).pc = s.pc := rfl
@[simp] theorem State.setB_acc (s : State) (v : Byte) : (s.setB v).acc = s.acc := rfl
@[simp] theorem State.setB_ar (s : State) (v : Byte) : (s.setB v).ar = s.ar := rfl
@[simp] theorem State.setB_ir (s : State) (v : Byte) : (s.setB v).ir = s.ir := rfl
@[simp] theorem State.setB_b (s : State) (v : Byte) : (s.setB v).b = v := rfl
@[simp] theorem State.setB_out (s : State) (v : Byte) : (s.setB v).out = s.out := rfl
@[simp] theorem State.setB_z (s : State) (v : Byte) : (s.setB v).z = s.z := rfl
@[simp] theorem State.setB_c (s : State) (v : Byte) : (s.setB v).c = s.c := rfl
@[simp] theorem State.setB_status (s : State) (v : Byte) : (s.setB v).status = s.status := rfl
@[simp] theorem State.setB_mem (s : State) (v : Byte) : (s.setB v).mem = s.mem := rfl
@[simp] theorem State.setB_resetSeen (s : State) (v : Byte) : (s.setB v).resetSeen = s.resetSeen := rfl

/-! ### OUT <- v -/

@[simp] theorem State.setOut_pc (s : State) (v : Byte) : (s.setOut v).pc = s.pc := rfl
@[simp] theorem State.setOut_acc (s : State) (v : Byte) : (s.setOut v).acc = s.acc := rfl
@[simp] theorem State.setOut_ar (s : State) (v : Byte) : (s.setOut v).ar = s.ar := rfl
@[simp] theorem State.setOut_ir (s : State) (v : Byte) : (s.setOut v).ir = s.ir := rfl
@[simp] theorem State.setOut_b (s : State) (v : Byte) : (s.setOut v).b = s.b := rfl
@[simp] theorem State.setOut_out (s : State) (v : Byte) : (s.setOut v).out = v := rfl
@[simp] theorem State.setOut_z (s : State) (v : Byte) : (s.setOut v).z = s.z := rfl
@[simp] theorem State.setOut_c (s : State) (v : Byte) : (s.setOut v).c = s.c := rfl
@[simp] theorem State.setOut_status (s : State) (v : Byte) : (s.setOut v).status = s.status := rfl
@[simp] theorem State.setOut_mem (s : State) (v : Byte) : (s.setOut v).mem = s.mem := rfl
@[simp] theorem State.setOut_resetSeen (s : State) (v : Byte) : (s.setOut v).resetSeen = s.resetSeen := rfl

/-! ### STATUS <- v -/

@[simp] theorem State.setStatus_pc (s : State) (v : Status) : (s.setStatus v).pc = s.pc := rfl
@[simp] theorem State.setStatus_acc (s : State) (v : Status) : (s.setStatus v).acc = s.acc := rfl
@[simp] theorem State.setStatus_ar (s : State) (v : Status) : (s.setStatus v).ar = s.ar := rfl
@[simp] theorem State.setStatus_ir (s : State) (v : Status) : (s.setStatus v).ir = s.ir := rfl
@[simp] theorem State.setStatus_b (s : State) (v : Status) : (s.setStatus v).b = s.b := rfl
@[simp] theorem State.setStatus_out (s : State) (v : Status) : (s.setStatus v).out = s.out := rfl
@[simp] theorem State.setStatus_z (s : State) (v : Status) : (s.setStatus v).z = s.z := rfl
@[simp] theorem State.setStatus_c (s : State) (v : Status) : (s.setStatus v).c = s.c := rfl
@[simp] theorem State.setStatus_status (s : State) (v : Status) : (s.setStatus v).status = v := rfl
@[simp] theorem State.setStatus_mem (s : State) (v : Status) : (s.setStatus v).mem = s.mem := rfl
@[simp] theorem State.setStatus_resetSeen (s : State) (v : Status) : (s.setStatus v).resetSeen = s.resetSeen := rfl

/-! ### MEM <- v -/

@[simp] theorem State.setMem_pc (s : State) (v : Memory) : (s.setMem v).pc = s.pc := rfl
@[simp] theorem State.setMem_acc (s : State) (v : Memory) : (s.setMem v).acc = s.acc := rfl
@[simp] theorem State.setMem_ar (s : State) (v : Memory) : (s.setMem v).ar = s.ar := rfl
@[simp] theorem State.setMem_ir (s : State) (v : Memory) : (s.setMem v).ir = s.ir := rfl
@[simp] theorem State.setMem_b (s : State) (v : Memory) : (s.setMem v).b = s.b := rfl
@[simp] theorem State.setMem_out (s : State) (v : Memory) : (s.setMem v).out = s.out := rfl
@[simp] theorem State.setMem_z (s : State) (v : Memory) : (s.setMem v).z = s.z := rfl
@[simp] theorem State.setMem_c (s : State) (v : Memory) : (s.setMem v).c = s.c := rfl
@[simp] theorem State.setMem_status (s : State) (v : Memory) : (s.setMem v).status = s.status := rfl
@[simp] theorem State.setMem_mem (s : State) (v : Memory) : (s.setMem v).mem = v := rfl
@[simp] theorem State.setMem_resetSeen (s : State) (v : Memory) : (s.setMem v).resetSeen = s.resetSeen := rfl

/-! ### RESET and LOAD -/

@[simp] theorem applyReset_pc (s : State) : (applyReset s).pc = 0 := rfl
@[simp] theorem applyReset_acc (s : State) : (applyReset s).acc = 0 := rfl
@[simp] theorem applyReset_ar (s : State) : (applyReset s).ar = 0 := rfl
@[simp] theorem applyReset_ir (s : State) : (applyReset s).ir = 0 := rfl
@[simp] theorem applyReset_b (s : State) : (applyReset s).b = 0 := rfl
@[simp] theorem applyReset_out (s : State) : (applyReset s).out = 0 := rfl
@[simp] theorem applyReset_z (s : State) : (applyReset s).z = 0 := rfl
@[simp] theorem applyReset_c (s : State) : (applyReset s).c = 0 := rfl
@[simp] theorem applyReset_status (s : State) : (applyReset s).status = .ready := rfl
@[simp] theorem applyReset_mem (s : State) : (applyReset s).mem = s.mem := rfl
@[simp] theorem applyReset_resetSeen (s : State) : (applyReset s).resetSeen = true := rfl

@[simp] theorem applyLoad_pc (img : Image) (s : State) : (applyLoad img s).pc = s.pc := rfl
@[simp] theorem applyLoad_acc (img : Image) (s : State) : (applyLoad img s).acc = s.acc := rfl
@[simp] theorem applyLoad_ar (img : Image) (s : State) : (applyLoad img s).ar = s.ar := rfl
@[simp] theorem applyLoad_ir (img : Image) (s : State) : (applyLoad img s).ir = s.ir := rfl
@[simp] theorem applyLoad_b (img : Image) (s : State) : (applyLoad img s).b = s.b := rfl
@[simp] theorem applyLoad_out (img : Image) (s : State) : (applyLoad img s).out = s.out := rfl
@[simp] theorem applyLoad_z (img : Image) (s : State) : (applyLoad img s).z = s.z := rfl
@[simp] theorem applyLoad_c (img : Image) (s : State) : (applyLoad img s).c = s.c := rfl
@[simp] theorem applyLoad_status (img : Image) (s : State) : (applyLoad img s).status = s.status := rfl
@[simp] theorem applyLoad_mem (img : Image) (s : State) : (applyLoad img s).mem = Memory.ofImage img := rfl
@[simp] theorem applyLoad_resetSeen (img : Image) (s : State) : (applyLoad img s).resetSeen = s.resetSeen := rfl

/-! ### Taking a terminal outcome -/

@[simp] theorem takeTerminal_pc (o : Status) (s : State) : (takeTerminal o s).pc = s.pc := rfl
@[simp] theorem takeTerminal_acc (o : Status) (s : State) : (takeTerminal o s).acc = s.acc := rfl
@[simp] theorem takeTerminal_ar (o : Status) (s : State) : (takeTerminal o s).ar = s.ar := rfl
@[simp] theorem takeTerminal_ir (o : Status) (s : State) : (takeTerminal o s).ir = s.ir := rfl
@[simp] theorem takeTerminal_b (o : Status) (s : State) : (takeTerminal o s).b = s.b := rfl
@[simp] theorem takeTerminal_out (o : Status) (s : State) : (takeTerminal o s).out = s.out := rfl
@[simp] theorem takeTerminal_z (o : Status) (s : State) : (takeTerminal o s).z = s.z := rfl
@[simp] theorem takeTerminal_c (o : Status) (s : State) : (takeTerminal o s).c = s.c := rfl
@[simp] theorem takeTerminal_status (o : Status) (s : State) : (takeTerminal o s).status = o := rfl
@[simp] theorem takeTerminal_mem (o : Status) (s : State) : (takeTerminal o s).mem = s.mem := rfl
@[simp] theorem takeTerminal_resetSeen (o : Status) (s : State) : (takeTerminal o s).resetSeen = s.resetSeen := rfl

/-! ### The whole fetch: AR <- PC[3:0]; PC <- PC + 1; IR <- M[AR] (R71, R72, R73) -/

@[simp] theorem fetch_pc (s : State) : (fetch s).pc = s.pc + 1#5 := rfl
@[simp] theorem fetch_acc (s : State) : (fetch s).acc = s.acc := rfl
@[simp] theorem fetch_ar (s : State) : (fetch s).ar = s.pcAddr := rfl
@[simp] theorem fetch_ir (s : State) : (fetch s).ir = s.mem.read s.pcAddr := rfl
@[simp] theorem fetch_b (s : State) : (fetch s).b = s.b := rfl
@[simp] theorem fetch_out (s : State) : (fetch s).out = s.out := rfl
@[simp] theorem fetch_z (s : State) : (fetch s).z = s.z := rfl
@[simp] theorem fetch_c (s : State) : (fetch s).c = s.c := rfl
@[simp] theorem fetch_status (s : State) : (fetch s).status = s.status := rfl
@[simp] theorem fetch_mem (s : State) : (fetch s).mem = s.mem := rfl
@[simp] theorem fetch_resetSeen (s : State) : (fetch s).resetSeen = s.resetSeen := rfl

end Sys2Proof.Machine
end

