-- ==== Sys2Proof/Laws/Commands.lean ====
section
/-! SUPPORT. What one command, a sequence of commands and a run of STEPs can do, each said once (spec/00_scope.md R10). -/

namespace Sys2Proof.Machine

/-- Everything a command that answers a state can have done. -/
theorem applyCommand_cases {k : Command} {s t : State} {r : Response} (h : applyCommand k s = .next (t, r)) :
    (k = .reset ∧ t = applyReset s ∧ r = .done) ∨
    (∃ img, k = .load img ∧ t = applyLoad img s ∧ r = .done) ∨
    (k = .step ∧ step s = .next t ∧ r = .outcome t.stepOutcome) ∨
    (k = .snapshot ∧ t = s ∧ r = .view s.snapshot) := by
  cases k with
  | reset =>
    simp only [applyCommand, Host.Outcome.next.injEq, Prod.mk.injEq] at h
    exact .inl ⟨rfl, h.1.symm, h.2.symm⟩
  | load img =>
    simp only [applyCommand, Host.Outcome.next.injEq, Prod.mk.injEq] at h
    exact .inr (.inl ⟨img, rfl, h.1.symm, h.2.symm⟩)
  | step =>
    simp only [applyCommand] at h
    cases hs : step s with
    | next u =>
      simp only [hs, mapNext, Host.Outcome.next.injEq, Prod.mk.injEq] at h
      obtain ⟨rfl, rfl⟩ := h
      exact .inr (.inr (.inl ⟨rfl, rfl, rfl⟩))
    | fault f => simp [hs, mapNext] at h
    | refused f => simp [hs, mapNext] at h
  | snapshot =>
    simp only [applyCommand, Host.Outcome.next.injEq, Prod.mk.injEq] at h
    exact .inr (.inr (.inr ⟨rfl, h.1.symm, h.2.symm⟩))

/-- A sequence that answers a state is its first command and then the rest. -/
theorem applyCommands_cons {k : Command} {ks : List Command} {s t : State} {rs : List Response}
    (h : applyCommands (k :: ks) s = .next (t, rs)) :
    ∃ u r rs', applyCommand k s = .next (u, r) ∧ applyCommands ks u = .next (t, rs') ∧ rs = r :: rs' := by
  simp only [applyCommands] at h
  cases hk : applyCommand k s with
  | next p =>
    simp only [hk] at h
    cases hks : applyCommands ks p.1 with
    | next q =>
      simp only [hks, mapNext, Host.Outcome.next.injEq, Prod.mk.injEq] at h
      exact ⟨p.1, p.2, q.2, rfl, by rw [hks, ← h.1], h.2.symm⟩
    | fault f => simp [hks, mapNext] at h
    | refused f => simp [hks, mapNext] at h
  | fault f => simp [hk] at h
  | refused f => simp [hk] at h

/-- The answer of a sequence from the answers of its first command and of the rest. -/
theorem applyCommands_cons_of {k : Command} {ks : List Command} {s u t : State} {r : Response} {rs : List Response}
    (hk : applyCommand k s = .next (u, r)) (hks : applyCommands ks u = .next (t, rs)) :
    applyCommands (k :: ks) s = .next (t, r :: rs) := by
  simp [applyCommands, hk, hks, mapNext]

/-- After n STEPs that answer a state, one more is the STEP from that state. -/
theorem stepTimes_succ {n : Nat} {s t : State} (h : stepTimes n s = .next t) : stepTimes (n + 1) s = step t := by
  induction n generalizing s with
  | zero =>
    simp only [stepTimes, Host.Outcome.next.injEq] at h
    subst h
    simp only [stepTimes]
    cases step s <;> rfl
  | succ n ih =>
    simp only [stepTimes] at h
    cases hs : step s with
    | next u =>
      simp only [hs] at h
      rw [stepTimes]
      simp only [hs]
      exact ih h
    | fault r => simp [hs] at h
    | refused r => simp [hs] at h

/-- n + 1 STEPs that answer a state are n STEPs and then one. -/
theorem stepTimes_split {n : Nat} {s t : State} (h : stepTimes (n + 1) s = .next t) :
    ∃ u, stepTimes n s = .next u ∧ step u = .next t := by
  cases hn : stepTimes n s with
  | next u => exact ⟨u, rfl, by rw [← stepTimes_succ hn, h]⟩
  | fault r =>
    exfalso
    induction n generalizing s with
    | zero => simp [stepTimes] at hn
    | succ n ih =>
      rw [stepTimes] at h hn
      cases hs : step s with
      | next u => simp only [hs] at h hn; exact ih h hn
      | fault r => simp [hs] at h
      | refused r => simp [hs] at h
  | refused r =>
    exfalso
    induction n generalizing s with
    | zero => simp [stepTimes] at hn
    | succ n ih =>
      rw [stepTimes] at h hn
      cases hs : step s with
      | next u => simp only [hs] at h hn; exact ih h hn
      | fault r => simp [hs] at h
      | refused r => simp [hs] at h

end Sys2Proof.Machine
end

