-- ==== Sys2Proof/Laws/Decode.lean ====
section
/-! SUPPORT. The nibbles of an instruction byte (spec/30_encoding.md R41) and what the decoder answers, by opcode (R45). -/

namespace Sys2Proof

@[simp] theorem opcodeOf_joinNibbles (op : Opcode) (a : Addr) : opcodeOf (joinNibbles op a) = op := by
  apply BitVec.eq_of_toNat_eq
  have := a.isLt
  have := op.isLt
  simp only [opcodeOf, joinNibbles, BitVec.extractLsb'_toNat, BitVec.toNat_append, Nat.shiftRight_eq_div_pow,
    Nat.shiftLeft_eq]
  rw [← Nat.shiftLeft_eq, ← Nat.shiftLeft_add_eq_or_of_lt (by omega), Nat.shiftLeft_eq]
  omega

@[simp] theorem operandOf_joinNibbles (op : Opcode) (a : Addr) : operandOf (joinNibbles op a) = a := by
  apply BitVec.eq_of_toNat_eq
  have := a.isLt
  simp only [operandOf, joinNibbles, BitVec.extractLsb'_toNat, BitVec.toNat_append, Nat.shiftRight_zero]
  rw [← Nat.shiftLeft_add_eq_or_of_lt (by omega), Nat.shiftLeft_eq]
  omega

/-- The opcode as a number: the high nibble. -/
theorem opcodeOf_toNat (b : Byte) : (opcodeOf b).toNat = b.toNat / 16 := by
  have := b.isLt
  simp only [opcodeOf, BitVec.extractLsb'_toNat, Nat.shiftRight_eq_div_pow]
  omega

/-- The operand as a number: the low nibble. -/
theorem operandOf_toNat (b : Byte) : (operandOf b).toNat = b.toNat % 16 := by
  simp only [operandOf, BitVec.extractLsb'_toNat, Nat.shiftRight_zero]

/-- Everything the decoder can answer: one of the five instructions under its own opcode, or INVALID with an opcode that is
none of the five. -/
theorem decode_cases (b : Byte) :
    (opcodeOf b = 0x0#4 ∧ decode b = .instr (.car (operandOf b))) ∨
    (opcodeOf b = 0x1#4 ∧ decode b = .instr (.som (operandOf b))) ∨
    (opcodeOf b = 0x2#4 ∧ decode b = .instr (.sub (operandOf b))) ∨
    (opcodeOf b = 0xE#4 ∧ decode b = .instr .sai) ∨
    (opcodeOf b = 0xF#4 ∧ decode b = .instr .par) ∨
    (legalByte b = false ∧ decode b = .invalid (opcodeOf b)) := by
  unfold decode legalByte
  split_ifs with h0 h1 h2 h3 h4 <;> simp_all

end Sys2Proof
end

