-- ==== Sys2Proof/Laws/Memory.lean ====
section
/-! SUPPORT. Memory (spec/20_memory.md): a LOAD gives a memory in canonical form, and reading it gives the image's bytes. -/

namespace Sys2Proof.Machine

/-- The canonical form from a higher address on is one from a lower address on. -/
theorem Memory.wfFrom_mono {lo lo' : Nat} {m : Memory} (h : Memory.wfFrom lo' m = true) (hle : lo ≤ lo') :
    Memory.wfFrom lo m = true := by
  cases m with
  | nil => rfl
  | cons cell m =>
    obtain ⟨a, v⟩ := cell
    simp only [Memory.wfFrom, Bool.and_eq_true, decide_eq_true_eq] at h ⊢
    exact ⟨⟨⟨by omega, h.1.1.2⟩, h.1.2⟩, h.2⟩

/-- Below the first address of a canonical memory every byte is the unlisted one. -/
theorem Memory.byteAt_below {lo a : Nat} {m : Memory} (h : Memory.wfFrom lo m = true) (ha : a < lo) :
    Memory.byteAt m a = unlistedByte := by
  induction m generalizing lo with
  | nil => rfl
  | cons cell m ih =>
    obtain ⟨k, v⟩ := cell
    simp only [Memory.wfFrom, Bool.and_eq_true, decide_eq_true_eq] at h
    have hne : k ≠ a := by omega
    simp only [Memory.byteAt, hne, if_false]
    exact ih h.2 (by omega)

/-- The cells of a list of bytes that fits below address 16 are in canonical form. -/
theorem Memory.cellsFrom_wf (vs : List Byte) (lo : Nat) (h : lo + vs.length ≤ 16) :
    Memory.wfFrom lo (Memory.cellsFrom lo vs) = true := by
  induction vs generalizing lo with
  | nil => rfl
  | cons v vs ih =>
    simp only [List.length_cons] at h
    have hrest := ih (lo + 1) (by omega)
    by_cases hv : v = unlistedByte
    · simpa [Memory.cellsFrom, hv] using Memory.wfFrom_mono hrest (by omega)
    · simp only [Memory.cellsFrom, hv, if_false, Memory.wfFrom, hrest, Bool.and_eq_true, decide_eq_true_eq]
      exact ⟨⟨⟨by omega, by omega⟩, by simpa using hv⟩, trivial⟩

/-- LOAD keeps the canonical form: every loaded memory has it (R29). It is the only operation that writes memory. -/
theorem Memory.ofImage_wf (img : Image) : (Memory.ofImage img).wf = true :=
  Memory.cellsFrom_wf img.toList 0 (by simp)

/-- Below the first address that a list of bytes occupies, its cells list nothing. -/
theorem Memory.byteAt_cellsFrom_below (vs : List Byte) (lo a : Nat) (h : a < lo) :
    Memory.byteAt (Memory.cellsFrom lo vs) a = unlistedByte := by
  induction vs generalizing lo with
  | nil => rfl
  | cons v vs ih =>
    by_cases hv : v = unlistedByte
    · simpa [Memory.cellsFrom, hv] using ih (lo + 1) (by omega)
    · have hne : lo ≠ a := by omega
      simpa [Memory.cellsFrom, hv, Memory.byteAt, hne] using ih (lo + 1) (by omega)

/-- Reading the cells of a list of bytes gives its bytes. -/
theorem Memory.byteAt_cellsFrom (vs : List Byte) (lo i : Nat) (h : i < vs.length) :
    Memory.byteAt (Memory.cellsFrom lo vs) (lo + i) = vs[i] := by
  induction vs generalizing lo i with
  | nil => simp at h
  | cons v vs ih =>
    cases i with
    | zero =>
      by_cases hv : v = unlistedByte
      · simpa [Memory.cellsFrom, hv] using Memory.byteAt_cellsFrom_below vs (lo + 1) lo (by omega)
      · simp [Memory.cellsFrom, hv, Memory.byteAt]
    | succ i =>
      have hi : i < vs.length := by simpa using h
      have hrest := ih (lo + 1) i hi
      rw [show lo + (i + 1) = lo + 1 + i by omega, List.getElem_cons_succ, ← hrest]
      by_cases hv : v = unlistedByte
      · simp [Memory.cellsFrom, hv]
      · simp [Memory.cellsFrom, hv, Memory.byteAt, show lo ≠ lo + 1 + i by omega]

/-- M[i] = image[i] after LOAD(image), by numeric address (R29). -/
theorem Memory.byteAt_ofImage (img : Image) (i : Nat) (h : i < 16) : Memory.byteAt (Memory.ofImage img) i = img[i] := by
  have hlen : i < img.toList.length := by simpa using h
  simpa [Memory.ofImage] using Memory.byteAt_cellsFrom img.toList 0 i hlen

/-- M[a] = image[a] after LOAD(image) (R29, R31). -/
theorem Memory.read_ofImage (img : Image) (a : Addr) : (Memory.ofImage img).read a = img[a.toNat]'a.isLt :=
  Memory.byteAt_ofImage img a.toNat a.isLt

/-- Byte i of the memory's image is the byte at address i (R11). -/
theorem Memory.toImage_getElem (m : Memory) (i : Nat) (h : i < 16) : m.toImage[i] = Memory.byteAt m i := by
  simp [Memory.toImage]

end Sys2Proof.Machine
end

