-- ==== Sys2Proof/Laws/Ops.lean ====
section
/-! SUPPORT. The ALU (spec/41_memory_alu.md R78), the operand read (R80, R81) and the fetch address (spec/40_instruction_cycle.md
R71, R72) in numbers, each said once. -/

namespace Sys2Proof.Machine

theorem aluAdd_toNat (x y : Byte) : (aluAdd x y).toNat = (x.toNat + y.toNat) % 256 := by simp [aluAdd]

theorem aluSub_toNat (x y : Byte) : ((aluSub x y).toNat : Int) = ((x.toNat : Int) - (y.toNat : Int)) % 256 := by
  simp [aluSub, BitVec.toNat_ofInt]
  omega

/-- AR <- a; B <- M[AR] and nothing else (R80, R81). -/
theorem loadSecondOperand_eq (a : Addr) (s : State) : loadSecondOperand a s = { s with ar := a, b := s.mem.read a } := rfl

/-- Below 16, PC[3:0] is PC: "AR <- PC[3:0] loses nothing" (R71). -/
theorem pcAddr_toNat {s : State} (h : s.pc.toNat < 16) : s.pcAddr.toNat = s.pc.toNat := by
  simp only [State.pcAddr, BitVec.extractLsb'_toNat, Nat.shiftRight_zero]
  omega

/-- The byte the fetch reads through AR is the byte at the numeric address PC (R71, R73). -/
theorem nextByte_eq_byteAtPc {s : State} (h : s.pc.toNat < 16) : s.nextByte = s.byteAtPc := by
  simp [State.nextByte, State.byteAtPc, Memory.read, pcAddr_toNat h]

/-- PC + 1 does not wrap: 0 to 15 becomes 1 to 16 (R72). -/
theorem pc_increment_toNat {s : State} (h : s.pc.toNat < 16) : (s.pc + 1#5).toNat = s.pc.toNat + 1 := by
  simp [BitVec.toNat_add]
  omega

end Sys2Proof.Machine
end

