-- ==== Sys2Proof/Laws/PerInstr.lean ====
section
/-! SUPPORT. What holds of every instruction as syntax, one lemma per constructor: it is well formed, and its encoding is the
byte with its opcode in the high nibble and its operand in the low nibble (spec/30_encoding.md R41, R48). -/

/-- The instruction is well formed and its encoding carries its opcode and its operand bits in their fields. -/
def Sys2Proof.Laws.EncodingFields.Statement (i : Sys2Proof.Instr) : Prop :=
  i.wf = true ∧ Sys2Proof.opcodeOf (Sys2Proof.encode i) = Sys2Proof.opcodeFor i ∧
    Sys2Proof.operandOf (Sys2Proof.encode i) = Sys2Proof.operandFor i

namespace Sys2Proof.Laws.EncodingFields

theorem car (a : Sys2Proof.Addr) : Statement (.car a) :=
  ⟨rfl, opcodeOf_joinNibbles _ _, operandOf_joinNibbles _ _⟩

theorem som (a : Sys2Proof.Addr) : Statement (.som a) :=
  ⟨rfl, opcodeOf_joinNibbles _ _, operandOf_joinNibbles _ _⟩

theorem sub (a : Sys2Proof.Addr) : Statement (.sub a) :=
  ⟨rfl, opcodeOf_joinNibbles _ _, operandOf_joinNibbles _ _⟩

theorem sai : Statement .sai := ⟨rfl, opcodeOf_joinNibbles _ _, operandOf_joinNibbles _ _⟩

theorem par : Statement .par := ⟨rfl, opcodeOf_joinNibbles _ _, operandOf_joinNibbles _ _⟩

end Sys2Proof.Laws.EncodingFields
end

