-- ==== Sys2Proof/Laws/Step.lean ====
section
/-! SUPPORT. What the execute phase and a STEP can do, said once (spec/40_instruction_cycle.md R67). Later proofs cite these
and do not unfold the step function. -/

namespace Sys2Proof.Machine

/-! ### The execute phase: each meaning's next state, in the fields of the state it started from -/

/-- CAR writes AR and ACC (R24, R79). -/
theorem execCar_next (a : Addr) (s : State) :
    execCar a s = .next { s with ar := a, acc := s.mem.read a } := rfl

/-- SOM writes AR, B and ACC (R24, R80). -/
theorem execSom_next (a : Addr) (s : State) :
    execSom a s = .next { s with ar := a, b := s.mem.read a, acc := aluAdd s.acc (s.mem.read a) } := rfl

/-- SUB writes AR, B and ACC (R24, R81). -/
theorem execSub_next (a : Addr) (s : State) :
    execSub a s = .next { s with ar := a, b := s.mem.read a, acc := aluSub s.acc (s.mem.read a) } := rfl

/-- SAI writes OUT (R24, R83). -/
theorem execSai_next (s : State) : execSai s = .next { s with out := s.acc } := rfl

/-- PAR writes STATUS (R24, R84). -/
theorem execPar_next (s : State) : execPar s = .next { s with status := .halted } := rfl

/-! ### The STEP before its execute phase -/

/-- Everything a STEP can issue. -/
theorem issue_cases (s : State) :
    (s.resetSeen = false ∧ issue s = .refuse .stepBeforeReset) ∨
    (s.resetSeen = true ∧ s.status ≠ .ready ∧ issue s = .finished s) ∨
    (s.resetSeen = true ∧ s.status = .ready ∧ 16 ≤ s.pc.toNat ∧ issue s = .finished (raisePcOverflow s)) ∨
    (s.Fetches ∧ issue s = issueFetched (fetch s)) := by
  unfold issue
  split_ifs with h1 h2 h3
  · exact .inl ⟨h1, rfl⟩
  · exact .inr (.inl ⟨by simpa using h1, h2, rfl⟩)
  · exact .inr (.inr (.inl ⟨by simpa using h1, by simpa using h2, h3, rfl⟩))
  · exact .inr (.inr (.inr ⟨⟨by simpa using h1, by simpa using h2, by omega⟩, rfl⟩))

/-- A STEP that fetches issues what the byte at PC decodes to. -/
theorem issue_fetches {s : State} (h : s.Fetches) : issue s = issueFetched (fetch s) := by
  simp [issue, h.afterReset, h.ready, h.inMemory]

/-- Everything a STEP that answers a next state can have done. -/
theorem step_cases {s t : State} (h : step s = .next t) :
    (s.resetSeen = true ∧ s.status ≠ .ready ∧ t = s) ∨
    (s.resetSeen = true ∧ s.status = .ready ∧ 16 ≤ s.pc.toNat ∧ t = raisePcOverflow s) ∨
    (s.Fetches ∧ ∃ op, decode s.nextByte = .invalid op ∧ t = raiseInvalidOpcode (fetch s)) ∨
    (s.Fetches ∧ ∃ i, decode s.nextByte = .instr i ∧ exec i (fetch s) = .next t) := by
  obtain ⟨-, hi⟩ | ⟨h1, h2, hi⟩ | ⟨h1, h2, h3, hi⟩ | ⟨hf, hi⟩ := issue_cases s <;> simp only [step, hi] at h
  · cases h
  · exact .inl ⟨h1, h2, by simpa using h.symm⟩
  · exact .inr (.inl ⟨h1, h2, h3, by simpa using h.symm⟩)
  · simp only [issueFetched, fetch_ir] at h
    cases hd : decode s.nextByte with
    | invalid op =>
      simp only [State.nextByte] at hd
      simp only [hd] at h
      exact .inr (.inr (.inl ⟨hf, op, rfl, by simpa using h.symm⟩))
    | instr i =>
      simp only [State.nextByte] at hd
      simp only [hd] at h
      exact .inr (.inr (.inr ⟨hf, i, rfl, h⟩))

/-- A STEP never answers a fault of the host's interface: its errors are next states (R86, R87; log entry 5). -/
theorem step_ne_fault (s : State) (r : Fault) : step s ≠ .fault r := by
  have hexec : ∀ i t, exec i t ≠ .fault r := by
    intro i t
    cases i <;> simp [exec, execCar, execSom, execSub, execSai, execPar]
  unfold step
  cases issue s <;> simp [hexec]

end Sys2Proof.Machine
end

