-- ==== Sys2Proof/Tests/Slice0.lean ====
section
/-! SUPPORT. The model's own tests. Expected results come from spec/95_test_vectors.md (the vector's name stands beside each
test) or from the encoding rules of spec/30_encoding.md. Then, for every statement with hypotheses, a witness that meets them. -/

namespace Sys2Proof.Tests

open Sys2Proof.Machine

/-! ### WellFormed: each check refuses an ill-formed term -/

/-- An opcode outside the five is no legal byte (R46); the operand nibble plays no part. -/
theorem test_wf_refuses_invalid_opcode :
    legalByte 0x30#8 = false ∧ legalByte 0xDF#8 = false ∧ legalByte 0x2F#8 = true ∧ legalByte 0xE7#8 = true := by decide

/-- The assembler never emits 0xE1 or 0xF5, nor an invalid opcode (R47, R66). -/
theorem test_wf_refuses_bytes_the_assembler_never_emits :
    assemblerByte 0xE1#8 = false ∧ assemblerByte 0xF5#8 = false ∧ assemblerByte 0x7C#8 = false ∧
    assemblerByte 0xE0#8 = true ∧ assemblerByte 0x2A#8 = true := by decide

/-- Address operands end at 15 and do not go below 0 (R57, R60). -/
theorem test_wf_refuses_addresses_out_of_range :
    addressInRange 16 = false ∧ addressInRange (-1) = false ∧ addressInRange 15 = true ∧ addressInRange 0 = true := by decide

/-- DB values end at 255 and do not go below 0 (R58). -/
theorem test_wf_refuses_db_values_out_of_range :
    dbValueInRange 256 = false ∧ dbValueInRange (-1) = false ∧ dbValueInRange 255 = true := by decide

/-- The canonical form refuses addresses that do not rise, an address of 16 and a cell with the unlisted byte. -/
theorem test_memory_wf_refuses :
    Memory.wf [(3, 1#8), (3, 2#8)] = false ∧ Memory.wf [(16, 1#8)] = false ∧ Memory.wf [(2, 0#8)] = false ∧
    Memory.wf [(2, 1#8), (15, 9#8)] = true := by decide

/-! ### Decoding: words written out bit by bit from R41 and R44 (vectors of section 2.1) -/

theorem test_decode_car : decode 0b00000000#8 = .instr (.car 0x0#4) ∧ decode 0b00001111#8 = .instr (.car 0xF#4) := by decide
theorem test_decode_som : decode 0b00010000#8 = .instr (.som 0x0#4) ∧ decode 0b00011010#8 = .instr (.som 0xA#4) := by decide
theorem test_decode_sub : decode 0b00101010#8 = .instr (.sub 0xA#4) ∧ decode 0b00101111#8 = .instr (.sub 0xF#4) := by decide
theorem test_decode_sai : decode 0b11100000#8 = .instr .sai ∧ decode 0b11100111#8 = .instr .sai := by decide
theorem test_decode_par : decode 0b11110000#8 = .instr .par ∧ decode 0b11111111#8 = .instr .par := by decide
theorem test_decode_invalid : decode 0b00110000#8 = .invalid 0x3#4 ∧ decode 0b11011111#8 = .invalid 0xD#4 := by decide

/-- The encoder's examples of section 2.1. -/
theorem test_encode : encode (.car 0x3#4) = 0x03#8 ∧ encode (.som 0xF#4) = 0x1F#8 ∧ encode (.sub 0x0#4) = 0x20#8 ∧
    encode .sai = 0xE0#8 ∧ encode .par = 0xF0#8 := by decide

theorem test_decodeTableWord : decodeTableWord 8 0x2A = some (.sub 0xA#4) ∧ decodeTableWord 8 0x7C = none ∧
    decodeTableWord 16 0x2A = none := by decide

/-! ### The ALU (vectors A4, A6, A10, A12) -/

theorem test_alu_add : aluAdd 128#8 128#8 = 0#8 ∧ aluAdd 255#8 10#8 = 9#8 := by decide
theorem test_alu_sub : aluSub 5#8 10#8 = 251#8 ∧ aluSub 0#8 255#8 = 1#8 := by decide

/-! ### One STEP each -/

/-- A state of section 2's notation: PC ACC AR IR B OUT STATUS and the listed bytes; Z = C = 0. -/
def vectorState (pc : PcWord) (acc : Byte) (ar : Addr) (ir b out : Byte) (status : Status) (mem : Memory) : State :=
  ⟨pc, acc, ar, ir, b, out, 0, 0, status, mem, true⟩

/-- Vector M1: CAR loads and leaves B. -/
theorem test_car_M1 : nextState? (step (vectorState 0 0x77 0 0 0x33 0 .ready [(0, 0x05#8), (5, 0x2A#8)])) =
    some (vectorState 1 0x2A 5 0x05 0x33 0 .ready [(0, 0x05#8), (5, 0x2A#8)]) := by decide

/-- Vector M2: CAR of its own address. -/
theorem test_car_M2 : nextState? (step (vectorState 3 0x10 0 0 0 0 .ready [(3, 0x03#8)])) =
    some (vectorState 4 0x03 3 0x03 0 0 .ready [(3, 0x03#8)]) := by decide

/-- Vector M4: the sum wraps and C stays 0. -/
theorem test_som_M4 : nextState? (step (vectorState 1 0xFF 0xE 0x0E 0 0 .ready [(1, 0x1F#8), (15, 0x0A#8)])) =
    some (vectorState 2 0x09 0xF 0x1F 0x0A 0 .ready [(1, 0x1F#8), (15, 0x0A#8)]) := by decide

/-- Vector M7: adding 0 overwrites B. -/
theorem test_som_M7 : nextState? (step (vectorState 0 0x42 0 0 0x99 0 .ready [(0, 0x1C#8)])) =
    some (vectorState 1 0x42 0xC 0x1C 0 0 .ready [(0, 0x1C#8)]) := by decide

/-- Vector M9: 5 - 10 = 251. -/
theorem test_sub_M9 : nextState? (step (vectorState 1 0x05 0xE 0x0E 0 0 .ready [(1, 0x2F#8), (15, 0x0A#8)])) =
    some (vectorState 2 0xFB 0xF 0x2F 0x0A 0 .ready [(1, 0x2F#8), (15, 0x0A#8)]) := by decide

/-- Vector M13: SUB of its own address. -/
theorem test_sub_M13 : nextState? (step (vectorState 2 0x22 0 0 0 0 .ready [(2, 0x22#8)])) =
    some (vectorState 3 0 2 0x22 0x22 0 .ready [(2, 0x22#8)]) := by decide

/-- Vector O2: SAI with operand bits; AR keeps the fetch address. -/
theorem test_sai_O2 : nextState? (step (vectorState 2 0x09 0xF 0x1F 0x0A 0 .ready [(2, 0xE7#8)])) =
    some (vectorState 3 0x09 2 0xE7 0x0A 0x09 .ready [(2, 0xE7#8)]) := by decide

/-- Vector O5: PAR at address 15 halts with PC = 16. -/
theorem test_par_O5 : nextState? (step (vectorState 15 0x01 0 0 0 0 .ready [(15, 0xFF#8)])) =
    some (vectorState 16 0x01 0xF 0xFF 0 0 .halted [(15, 0xFF#8)]) := by decide

/-- Vector C2: the instruction at 15 leaves PC = 16, no wrap. -/
theorem test_cycle_C2 : nextState? (step (vectorState 15 0 0 0 0 0 .ready [(0, 0x3B#8)])) =
    some (vectorState 16 0x3B 0 0 0 0 .ready [(0, 0x3B#8)]) := by decide

/-- Vector C1: PC = 16 changes only STATUS. -/
theorem test_overflow_C1 : nextState? (step (vectorState 16 0x2A 5 0x05 0 0 .ready [])) =
    some (vectorState 16 0x2A 5 0x05 0 0 .faultPcOverflow []) := by decide

/-- Vector E1: an invalid opcode; its reported value is the nibble 7. -/
theorem test_invalid_E1 :
    nextState? (step (vectorState 4 0x11 2 0xE0 0x22 0x33 .ready [(4, 0x7C#8)])) =
      some (vectorState 5 0x11 4 0x7C 0x22 0x33 .faultInvalidOpcode [(4, 0x7C#8)]) ∧
    (vectorState 5 0x11 4 0x7C 0x22 0x33 .faultInvalidOpcode []).stepOutcome = .errInvalidOpcode 0x7#4 := by decide

/-- Vector E6: after PAR a STEP changes nothing and returns HALTED again. -/
theorem test_latch_E6 : nextState? (applyCommand .step (vectorState 4 0x09 3 0xF0 0x0A 0x09 .halted [])) =
    some (vectorState 4 0x09 3 0xF0 0x0A 0x09 .halted [], .outcome .halted) := by decide

/-- Vector R1: RESET after HALTED. -/
theorem test_reset_R1 : applyReset (vectorState 7 0xFF 6 0xF0 0x5F 0xFF .halted [(0, 0x0C#8)]) =
    vectorState 0 0 0 0 0 0 .ready [(0, 0x0C#8)] := by decide

/-- An image: the given bytes from address 0 on, the rest 0. -/
def imageOf (v0 v1 : Byte) : Image := ((Vector.replicate 16 0x00#8).setIfInBounds 0 v0).setIfInBounds 1 v1

/-- R29: LOAD lists the image's bytes in canonical form. -/
theorem test_load : (applyLoad (imageOf 0x00 0xF0) State.reset).mem = [(1, 0xF0#8)] := by decide

/-- Rows of the opcode table run as the first instruction after reset. -/
theorem test_withFetchWord :
    (nextState? (step (State.reset.withFetchWord 8 0x1A))).map (fun t => (t.ir, t.ar, t.pc)) = some (0x1A#8, 0xA#4, 1#5) ∧
    (nextState? (step (State.reset.withFetchWord 8 0xF0))).map (fun t => (t.ir, t.status)) = some (0xF0#8, .halted) := by
  decide

/-- R105: a RUN begun with STATUS latched returns at once the mapping of the latched outcome, after one ignored STEP. -/
theorem test_run_latched : run (vectorState 4 0 3 0xF0 0 0 .halted []) =
    .returned (.ok .explicitHalt) (vectorState 4 0 3 0xF0 0 0 .halted []) 1 := by decide

/-! ### The assembler (vectors of section 2.8; X10) -/

theorem test_asm_S3_S5 :
    assemble "car 5".toList = .ok (imageOf 0x05 0x00) ∧ assemble "PAR ; stop".toList = .ok (imageOf 0xF0 0x00) := by decide

theorem test_asm_S7_S8 :
    assemble "CAR +A".toList = .ok (imageOf 0x0A 0x00) ∧ assemble "CAR 1\r\nPAR".toList = .ok (imageOf 0x01 0xF0) := by decide

theorem test_asm_S10 : assemble "CAR 1\nORG 0\nDB 9".toList = .ok (imageOf 0x09 0x00) := by decide

theorem test_asm_S13_S18 :
    assemble "\n\nXYZ".toList = .error ⟨3, .unknownMnemonic⟩ ∧ assemble "SAI 3".toList = .error ⟨1, .unexpectedOperand⟩ := by
  decide

theorem test_asm_S19_S20 :
    assemble "CAR 0x".toList = .error ⟨1, .malformedNumber⟩ ∧ assemble "CAR 0b1".toList = .error ⟨1, .operandOutOfRange⟩ := by
  decide

theorem test_asm_S24_S26 :
    assemble "DB 1.5".toList = .error ⟨1, .malformedNumber⟩ ∧
    assemble "ORG F\nDB 1\nDB 2".toList = .error ⟨3, .memoryOverflow⟩ := by decide

theorem test_asm_X9_X10 :
    assemble "DB 5".toList = .error ⟨1, .dbWithoutOrg⟩ ∧ assemble "DB 256".toList = .error ⟨1, .invalidDbValue⟩ ∧
    assemble "CAR".toList = .error ⟨1, .missingOperand⟩ := by decide

/-! ### Witnesses: for every statement with hypotheses, a state and operands that meet them -/

/-- Ready at address pc, which holds the byte v, with ACC = 0xFF. -/
def readyAt (pc : PcWord) (v : Byte) : State := vectorState pc 0xFF 0 0 0x12 0x34 .ready (if v = 0 then [] else [(pc.toNat, v)])

/-- The power-on state of the witnesses. -/
def junk : PowerOn := ⟨19, 1, 2, 3, 4, 5, .halted, imageOf 0x11 0xF0⟩

theorem witness_fetches_first_and_last : (readyAt 0 0x05).Fetches ∧ (readyAt 15 0x05).Fetches :=
  ⟨⟨rfl, rfl, by decide⟩, ⟨rfl, rfl, by decide⟩⟩

theorem witness_StepsBeforeTheFirstResetAreRefused :
    (Command.reset ∉ [Command.snapshot, .step] ∧ Command.step ∈ [Command.snapshot, .step]) ∧
    (Command.reset ∉ [Command.load (imageOf 1 2)] ∧ Command.step ∉ [Command.load (imageOf 1 2)]) ∧
    (State.powerOn junk).resetSeen = false := by decide

theorem witness_ResetStateHoldsTheResetValues : (vectorState 3 1 2 3 4 5 .halted []).mem = [] := rfl

theorem witness_ResetForgetsHistory :
    (∃ t rs, applyCommands [.load (imageOf 0xE0 0xF0), .step, .step] State.reset = .next (t, rs) ∧ t.status = .halted) ∧
    lastLoad [.load (imageOf 0xE0 0xF0), .step, .step] = some (imageOf 0xE0 0xF0) ∧
    (∃ t rs, applyCommands [.step] State.reset = .next (t, rs)) ∧ lastLoad [.step] = none :=
  ⟨⟨_, _, rfl, rfl⟩, rfl, ⟨_, _, rfl⟩, rfl⟩

theorem witness_LoadIsTheOnlyWriteOfMemory :
    (∃ t r, applyCommand .step (readyAt 15 0x1F) = .next (t, r)) ∧ ∀ img, Command.step ≠ .load img :=
  ⟨⟨_, _, rfl⟩, by simp⟩

theorem witness_CanonicalMemoriesThatReadAlikeAreEqual :
    Memory.wf [(0, 7#8), (15, 1#8)] = true ∧ ∀ a : Addr, Memory.read [(0, 7#8), (15, 1#8)] a = Memory.read [(0, 7#8), (15, 1#8)] a :=
  ⟨by decide, fun _ => rfl⟩

theorem witness_DecodedBytesEncodeBack : decode 0x2F#8 = .instr (.sub 0xF#4) ∧ decode 0xE7#8 = .instr .sai := by decide

theorem witness_OpcodeMapIsTheTable :
    (0x0F#8).toNat / 16 = 0x0 ∧ (0x10#8).toNat / 16 = 0x1 ∧ (0x2F#8).toNat / 16 = 0x2 ∧ (0xE0#8).toNat / 16 = 0xE ∧
    (0xFF#8).toNat / 16 = 0xF ∧ (0x30#8).toNat / 16 = 0x3 ∧ (0xDF#8).toNat / 16 = 0xD := by decide

theorem witness_AluResultsByCase :
    (127#8).toNat + (128#8).toNat ≤ 255 ∧ 255 < (128#8).toNat + (128#8).toNat ∧ (7#8).toNat ≤ (7#8).toNat ∧
    (6#8).toNat < (7#8).toNat := by decide

theorem witness_StepRunsTheDecodedInstruction :
    (readyAt 15 0x2F).Fetches ∧ decode (readyAt 15 0x2F).nextByte = .instr (.sub 0xF#4) :=
  ⟨⟨rfl, rfl, by decide⟩, by decide⟩

theorem witness_EveryFetchIncrementsPcAndLoadsIr : (readyAt 15 0xDF).Fetches := ⟨rfl, rfl, by decide⟩

theorem witness_StepOnCarByte : (readyAt 0 0x00).Fetches ∧ (readyAt 0 0x00).byteAtPc.toNat / 16 = 0x0 :=
  ⟨⟨rfl, rfl, by decide⟩, by decide⟩

theorem witness_StepOnSomByte : (readyAt 15 0x1F).Fetches ∧ (readyAt 15 0x1F).byteAtPc.toNat / 16 = 0x1 :=
  ⟨⟨rfl, rfl, by decide⟩, by decide⟩

theorem witness_StepOnSubByte : (readyAt 15 0x2F).Fetches ∧ (readyAt 15 0x2F).byteAtPc.toNat / 16 = 0x2 :=
  ⟨⟨rfl, rfl, by decide⟩, by decide⟩

theorem witness_StepOnSaiByte : (readyAt 3 0xEF).Fetches ∧ (readyAt 3 0xEF).byteAtPc.toNat / 16 = 0xE :=
  ⟨⟨rfl, rfl, by decide⟩, by decide⟩

theorem witness_StepOnParByte : (readyAt 15 0xF0).Fetches ∧ (readyAt 15 0xF0).byteAtPc.toNat / 16 = 0xF :=
  ⟨⟨rfl, rfl, by decide⟩, by decide⟩

theorem witness_PcOverflowChangesOnlyStatus :
    (readyAt 16 0).resetSeen = true ∧ (readyAt 16 0).status = .ready ∧ 16 ≤ (readyAt 16 0).pc.toNat ∧
    16 ≤ (readyAt 31 0).pc.toNat := by decide

theorem witness_InvalidOpcodeLeavesTheFetchedState :
    ((readyAt 15 0x30).Fetches ∧ 0x3 ≤ (readyAt 15 0x30).byteAtPc.toNat / 16 ∧ (readyAt 15 0x30).byteAtPc.toNat / 16 ≤ 0xD) ∧
    ((readyAt 0 0xDF).Fetches ∧ 0x3 ≤ (readyAt 0 0xDF).byteAtPc.toNat / 16 ∧ (readyAt 0 0xDF).byteAtPc.toNat / 16 ≤ 0xD) :=
  ⟨⟨⟨rfl, rfl, by decide⟩, by decide⟩, ⟨⟨rfl, rfl, by decide⟩, by decide⟩⟩

theorem witness_LatchedStepReturnsTheSameOutcome :
    (vectorState 4 0 3 0xF0 0 0 .halted []).status = .halted ∧
    (vectorState 4 0 3 0x7C 0 0 .faultInvalidOpcode []).status = .faultInvalidOpcode ∧
    (vectorState 16 0 3 0 0 0 .faultPcOverflow []).status = .faultPcOverflow ∧
    (vectorState 16 0 3 0 0 0 .faultPcOverflow []).resetSeen = true := by decide

theorem witness_OnlyResetLeavesATerminalOutcome :
    (vectorState 4 0 3 0xF0 0 0 .halted []).resetSeen = true ∧ (vectorState 4 0 3 0xF0 0 0 .halted []).status ≠ .ready ∧
    Command.reset ∉ [Command.step, .load (imageOf 1 2), .snapshot] := by decide

theorem witness_EveryStepReturnsOneOfFourOutcomes : (readyAt 0 0xD0).resetSeen = true ∧ (readyAt 0 0xD0).Fetches :=
  ⟨rfl, ⟨rfl, rfl, by decide⟩⟩

theorem witness_FlagsAreInert :
    (∃ t rs, applyCommands [.step] (readyAt 0 0x1F) = .next (t, rs)) ∧ (readyAt 0 0x1F).flagsClear = true ∧
    (∃ t, exec (.som 0xF#4) (readyAt 0 0x1F) = .next t) := ⟨⟨_, _, rfl⟩, rfl, ⟨_, rfl⟩⟩

theorem witness_MemoryIsReadOnlyToTheCore :
    (∃ t, exec (.sub 0x1#4) (readyAt 0 0x21) = .next t) ∧ (∃ t, stepTimes 2 (readyAt 0 0x21) = .next t) :=
  ⟨⟨_, rfl⟩, ⟨_, rfl⟩⟩

theorem witness_StepsWriteOnlyTheirSets :
    ∃ t, step (readyAt 15 0x1F) = .next t ∧ t.acc ≠ (readyAt 15 0x1F).acc ∧ t.b ≠ (readyAt 15 0x1F).b ∧
      t.pc ≠ (readyAt 15 0x1F).pc := ⟨_, rfl, by decide, by decide, by decide⟩

theorem witness_StepsWriteOnlyTheirSets_out :
    ∃ t, step (readyAt 0 0xE0) = .next t ∧ t.out ≠ (readyAt 0 0xE0).out := ⟨_, rfl, by decide⟩

/-- Each of the three ways STATUS changes, at a boundary: PC = 16, a PAR at address 15, the opcodes 0x3 and 0xD. -/
theorem witness_StepsWriteOnlyTheirSets_status :
    (∃ t, step (readyAt 16 0) = .next t ∧ t.status = .faultPcOverflow) ∧
    (∃ t, step (readyAt 15 0xF0) = .next t ∧ t.status = .halted) ∧
    (∃ t, step (readyAt 0 0x30) = .next t ∧ t.status = .faultInvalidOpcode) ∧
    (∃ t, step (readyAt 15 0xDF) = .next t ∧ t.status = .faultInvalidOpcode) :=
  ⟨⟨_, rfl, rfl⟩, ⟨_, rfl, rfl⟩, ⟨_, rfl, rfl⟩, ⟨_, rfl, rfl⟩⟩

theorem witness_StepsReadOnlyPcAccAndMemory :
    (readyAt 15 0x1F).Fetches ∧ (vectorState 15 0xFF 7 8 9 10 .ready [(15, 0x1F#8)]).Fetches ∧
    SameBytes (readyAt 15 0x1F) (vectorState 15 0xFF 7 8 9 10 .ready [(15, 0x1F#8)]) ∧
    (readyAt 15 0x1F).b ≠ (vectorState 15 0xFF 7 8 9 10 .ready [(15, 0x1F#8)]).b :=
  ⟨⟨rfl, rfl, by decide⟩, ⟨rfl, rfl, by decide⟩, fun _ => rfl, by decide⟩

theorem witness_IgnoredOperandBitsHaveNoEffect :
    (readyAt 3 0xE7).Fetches ∧ (readyAt 3 0xE7).byteAtPc.toNat / 16 = 0xE ∧ (readyAt 3 0xFF).byteAtPc.toNat / 16 = 0xF ∧
    (Memory.byteAt [(3, 0xE0#8)] 3).toNat / 16 = 0xE ∧ (Memory.byteAt [(3, 0xF0#8)] 3).toNat / 16 = 0xF :=
  ⟨⟨rfl, rfl, by decide⟩, by decide, by decide, by decide, by decide⟩

theorem witness_ControlFlowIsStrictlySequential :
    (∃ t, exec .sai State.reset = .next t) ∧ (∃ t, step (readyAt 15 0xE0) = .next t) ∧
    (∃ t, stepTimes 2 (applyReset (readyAt 15 0xE0)) = .next t ∧ t.status = .ready) :=
  ⟨⟨_, rfl⟩, ⟨_, rfl⟩, ⟨_, rfl, rfl⟩⟩

theorem witness_RunFromResetEndsAtTheFirstEndingByte_ending :
    endsRun (Memory.byteAt [(15, 0xDF#8)] 15) = true ∧ (∀ j : Nat, j < 15 → endsRun (Memory.byteAt [(15, 0xDF#8)] j) = false) ∧
    endsRun (Memory.byteAt [(0, 0xF0#8)] 0) = true := by decide

theorem witness_RunFromResetEndsAtTheFirstEndingByte_none :
    ∀ j : Nat, j < 16 → endsRun (Memory.byteAt [(3, 0xE0#8), (15, 0x2F#8)] j) = false := by decide

theorem witness_RunReturnsWithinSeventeenSteps :
    (readyAt 15 0xE0).resetSeen = true ∧ (vectorState 4 0 3 0xF0 0 0 .halted []).status ≠ .ready := by decide

theorem witness_StepKeepsTheInvariant : (readyAt 15 0xF0).Inv ∧ ∃ t, step (readyAt 15 0xF0) = .next t ∧ t.status = .halted :=
  ⟨⟨rfl, by decide, by decide, rfl, by decide, by decide, by decide⟩, _, rfl, rfl⟩

theorem witness_ResetEstablishesAndCommandsKeepTheInvariant :
    (State.powerOn junk).mem.wf = true ∧ (readyAt 15 0xF0).Inv ∧
    ∃ t rs, applyCommands [.step, .load (imageOf 1 2)] (readyAt 15 0xF0) = .next (t, rs) :=
  ⟨by decide, ⟨rfl, by decide, by decide, rfl, by decide, by decide, by decide⟩, _, _, rfl⟩

theorem witness_HexNumberTokensFollowTheGrammar :
    (['-'] ∈ [[], ['+'], ['-']] ∧ ['0', 'X'] ∈ [[], ['0', 'x'], ['0', 'X']] ∧ ∀ ch ∈ ['f', '9'], ch ∈ hexDigits) ∧
    (hexNumber ['-', '0', 'X', 'f', '9']).isSome = true := ⟨by simp [hexDigits], by decide⟩

theorem witness_DecNumberTokensFollowTheGrammar :
    (['+'] ∈ [[], ['+'], ['-']] ∧ ∀ ch ∈ ['0', '9'], ch ∈ decDigits) ∧ (decNumber ['+', '0', '9']).isSome = true :=
  ⟨by simp [decDigits], by decide⟩

/-- A failing first line, a failing last line after a valid one, and a source whose lines are all valid. -/
theorem witness_AssembleReturnsAnImageOrTheFirstError :
    (sourceLines "SAI 3\nPAR".toList = [] ++ "SAI 3".toList :: ["PAR".toList] ∧
      asmLines 1 [] AsmState.initial = .ok AsmState.initial ∧
      asmLine "SAI 3".toList AsmState.initial = .error .unexpectedOperand) ∧
    (∃ st, sourceLines "PAR\nDB 5".toList = ["PAR".toList] ++ "DB 5".toList :: [] ∧
      asmLines 1 ["PAR".toList] AsmState.initial = .ok st ∧ asmLine "DB 5".toList st = .error .dbWithoutOrg ∧
      assemble "PAR\nDB 5".toList = .error ⟨2, .dbWithoutOrg⟩) ∧
    (∃ st, asmLines 1 (sourceLines "PAR".toList) AsmState.initial = .ok st ∧ ValidLines ["PAR".toList] AsmState.initial st) :=
  ⟨⟨rfl, rfl, rfl⟩, ⟨_, rfl, rfl, rfl, rfl⟩, _, rfl, _, rfl, rfl⟩

theorem witness_AssembledImagesAreWellFormed : ∃ img, assemble "SAI\nORG 5\nDB 48".toList = .ok img := ⟨_, rfl⟩

theorem witness_UnwrittenImageBytesAreZero :
    (∃ st, assembleState "PAR".toList = .ok st ∧ st.writers[15] = none) ∧
    ∀ line ∈ sourceLines "; x\n  ".toList, lineTokens line = [] := ⟨⟨_, rfl, rfl⟩, by decide⟩

theorem witness_AddressedLinesWriteTheirByteAtIp :
    (Keyword.sub, 0x2) ∈ [(Keyword.car, 0x0), (Keyword.som, 0x1), (Keyword.sub, 0x2)] ∧
    keywordOf ['s', 'U', 'b'] = some .sub ∧ hexNumber ['F'] = some ((15 : Nat) : Int) ∧ AsmState.initial.ip < 16 ∧
    16 ≤ ({ AsmState.initial with ip := 16 } : AsmState).ip := by decide

theorem witness_PlainLinesWriteTheirByteAtIp :
    (Keyword.par, 0xF) ∈ [(Keyword.sai, 0xE), (Keyword.par, 0xF)] ∧ keywordOf ['p', 'a', 'r'] = some .par ∧
    [['1']] ≠ ([] : List (List Char)) ∧ ({ AsmState.initial with ip := 15 } : AsmState).ip < 16 ∧
    16 ≤ ({ AsmState.initial with ip := 16 } : AsmState).ip := by decide

theorem witness_DirectiveLinesUseTheDataPointer :
    keywordOf ['d', 'b'] = some .db ∧ decNumber ['2', '5', '5'] = some ((255 : Nat) : Int) ∧ AsmState.initial.orgSeen = false ∧
    16 ≤ ({ AsmState.initial with dp := 16, orgSeen := true } : AsmState).dp ∧
    ({ AsmState.initial with dp := 15, orgSeen := true } : AsmState).dp < 16 ∧ keywordOf ['O', 'r', 'g'] = some .org ∧
    hexNumber ['f'] = some ((15 : Nat) : Int) := by decide

theorem witness_OperandErrorsComeFirst :
    keywordOf ['C', 'A', 'R'] = some .car ∧ keywordOf ['D', 'B'] = some .db ∧ hexNumber ['G'] = none ∧
    hexNumber ['1', '0'] = some 16 ∧ hexNumber ['-', '1'] = some (-1) ∧ decNumber ['F', 'F'] = none ∧
    decNumber ['2', '5', '6'] = some 256 := by decide

end Sys2Proof.Tests
end

/-! PROOF. Z and C are inert (spec/10_state.md R20). One fact carries the family: the execute phase and the whole STEP commute
with setting the flags. So they read no flag, and, since a state with its own flags set is that state, they write none. -/

namespace Sys2Proof.Machine

/-! ### Setting the flags -/

/-- The state with Z and C at the given values and everything else as it is. -/
def State.withFlags (s : State) (z c : BitVec 1) : State := { s with z := z, c := c }

@[simp] theorem State.withFlags_z (s : State) (z c : BitVec 1) : (s.withFlags z c).z = z := rfl
@[simp] theorem State.withFlags_c (s : State) (z c : BitVec 1) : (s.withFlags z c).c = c := rfl
@[simp] theorem State.withFlags_pc (s : State) (z c : BitVec 1) : (s.withFlags z c).pc = s.pc := rfl
@[simp] theorem State.withFlags_ir (s : State) (z c : BitVec 1) : (s.withFlags z c).ir = s.ir := rfl
@[simp] theorem State.withFlags_status (s : State) (z c : BitVec 1) : (s.withFlags z c).status = s.status := rfl
@[simp] theorem State.withFlags_resetSeen (s : State) (z c : BitVec 1) : (s.withFlags z c).resetSeen = s.resetSeen := rfl

@[simp] theorem State.withFlags_self (s : State) : s.withFlags s.z s.c = s := rfl

theorem fetch_withFlags (s : State) (z c : BitVec 1) : fetch (s.withFlags z c) = (fetch s).withFlags z c := rfl

/-- What is issued, with the flags set in the state it carries. -/
def Issue.withFlags (z c : BitVec 1) : Issue → Issue
  | .finished s => .finished (s.withFlags z c)
  | .execute i s => .execute i (s.withFlags z c)
  | .refuse r => .refuse r

/-! ### The execute phase and the STEP commute with setting the flags -/

theorem exec_withFlags (i : Instr) (s : State) (z c : BitVec 1) :
    exec i (s.withFlags z c) = mapNext (State.withFlags · z c) (exec i s) := by
  cases i with
  | car a => simp only [exec, execCar_next]; rfl
  | som a => simp only [exec, execSom_next]; rfl
  | sub a => simp only [exec, execSub_next]; rfl
  | sai => simp only [exec, execSai_next]; rfl
  | par => simp only [exec, execPar_next]; rfl

theorem issueFetched_withFlags (s : State) (z c : BitVec 1) :
    issueFetched (s.withFlags z c) = (issueFetched s).withFlags z c := by
  simp only [issueFetched, State.withFlags_ir]
  cases decode s.ir with
  | instr i => rfl
  | invalid op => rfl

/-- No guard of the STEP looks at a flag, and each branch passes the flags on. -/
theorem issue_withFlags (s : State) (z c : BitVec 1) : issue (s.withFlags z c) = (issue s).withFlags z c := by
  obtain ⟨hreset, hi⟩ | ⟨hreset, hstatus, hi⟩ | ⟨hreset, hstatus, hpc, hi⟩ | ⟨hf, hi⟩ := issue_cases s <;> rw [hi]
  · simp [issue, hreset, Issue.withFlags]
  · simp [issue, hreset, hstatus, Issue.withFlags]
  · simp only [issue, State.withFlags_resetSeen, State.withFlags_status, State.withFlags_pc, hreset, hstatus, hpc]
    rfl
  · have hf' : (s.withFlags z c).Fetches := ⟨hf.afterReset, hf.ready, hf.inMemory⟩
    rw [issue_fetches hf', fetch_withFlags, issueFetched_withFlags]

theorem step_withFlags (s : State) (z c : BitVec 1) :
    step (s.withFlags z c) = mapNext (State.withFlags · z c) (step s) := by
  simp only [step, issue_withFlags]
  cases issue s with
  | finished t => rfl
  | execute i t => exact exec_withFlags i t z c
  | refuse r => rfl

/-! ### So neither writes a flag -/

/-- An operation that commutes with setting the flags leaves them as they are: set them to the values they have. -/
theorem flags_kept_of_withFlags {f : State → Host.Outcome State Fault Refusal}
    (hf : ∀ s z c, f (s.withFlags z c) = mapNext (State.withFlags · z c) (f s)) {s t : State} (h : f s = .next t) :
    t.z = s.z ∧ t.c = s.c := by
  have hself := hf s s.z s.c
  simp only [State.withFlags_self, h, mapNext, Host.Outcome.next.injEq] at hself
  rw [hself]
  simp

theorem exec_keeps_flags {i : Instr} {s t : State} (h : exec i s = .next t) : t.z = s.z ∧ t.c = s.c :=
  flags_kept_of_withFlags (exec_withFlags i) h

theorem step_keeps_flags {s t : State} (h : step s = .next t) : t.z = s.z ∧ t.c = s.c :=
  flags_kept_of_withFlags step_withFlags h

/-! ### Commands keep the flags clear -/

theorem flagsClear_eq_of_flags_eq {s t : State} (h : t.z = s.z ∧ t.c = s.c) : t.flagsClear = s.flagsClear := by
  simp only [State.flagsClear, h.1, h.2]

theorem applyCommand_keeps_flagsClear {k : Command} {s t : State} {r : Response}
    (h : applyCommand k s = .next (t, r)) (hs : s.flagsClear = true) : t.flagsClear = true := by
  obtain ⟨-, rfl, -⟩ | ⟨img, -, rfl, -⟩ | ⟨-, hstep, -⟩ | ⟨-, rfl, -⟩ := applyCommand_cases h
  · rfl
  · exact hs
  · rwa [flagsClear_eq_of_flags_eq (step_keeps_flags hstep)]
  · exact hs

theorem applyCommands_keep_flagsClear {ks : List Command} {s t : State} {rs : List Response}
    (h : applyCommands ks s = .next (t, rs)) (hs : s.flagsClear = true) : t.flagsClear = true := by
  induction ks generalizing s rs with
  | nil =>
    simp only [applyCommands, Host.Outcome.next.injEq, Prod.mk.injEq] at h
    rwa [← h.1]
  | cons k ks ih =>
    obtain ⟨u, r, rs', hk, hks, -⟩ := applyCommands_cons h
    exact ih hks (applyCommand_keeps_flagsClear hk hs)

/-- Settles O32: power-on and RESET write the flags as 0, every command keeps them so, and the STEP commutes with setting
them. -/
theorem flagsAreInert : Obligations.FlagsAreInert :=
  ⟨fun _ => rfl, fun _ => rfl, fun _ _ _ _ => applyCommands_keep_flagsClear, fun _ _ _ => exec_keeps_flags, step_withFlags⟩

end Sys2Proof.Machine


/-! PROOF. LOAD is the only write of memory (spec/20_memory.md R29, R30). Memory is followed as its list: the execute phase, the
STEP and every command but LOAD leave the list as it is, so they leave every byte. -/

namespace Sys2Proof.Machine

/-! ### The core leaves the memory list as it is -/

theorem sameBytes_of_mem_eq {s t : State} (h : t.mem = s.mem) : SameBytes s t := fun a => congrArg (Memory.read · a) h

/-- Every meaning answers a next state, and none has a memory write (R30). -/
theorem exec_answers_with_same_mem (i : Instr) (s : State) : ∃ t, exec i s = .next t ∧ t.mem = s.mem := by
  cases i with
  | car a => exact ⟨_, execCar_next a s, rfl⟩
  | som a => exact ⟨_, execSom_next a s, rfl⟩
  | sub a => exact ⟨_, execSub_next a s, rfl⟩
  | sai => exact ⟨_, execSai_next s, rfl⟩
  | par => exact ⟨_, execPar_next s, rfl⟩

theorem exec_keeps_mem {i : Instr} {s t : State} (h : exec i s = .next t) : t.mem = s.mem := by
  obtain ⟨u, hu, hmem⟩ := exec_answers_with_same_mem i s
  obtain rfl : t = u := Host.Outcome.next.inj (h.symm.trans hu)
  exact hmem

theorem step_keeps_mem {s t : State} (h : step s = .next t) : t.mem = s.mem := by
  obtain ⟨-, -, rfl⟩ | ⟨-, -, -, rfl⟩ | ⟨-, op, -, rfl⟩ | ⟨-, i, -, hexec⟩ := step_cases h
  · rfl
  · exact takeTerminal_mem _ s
  · exact (takeTerminal_mem _ (fetch s)).trans (fetch_mem s)
  · exact (exec_keeps_mem hexec).trans (fetch_mem s)

theorem stepTimes_keeps_mem {n : Nat} {s t : State} (h : stepTimes n s = .next t) : t.mem = s.mem := by
  induction n generalizing t with
  | zero => rw [Host.Outcome.next.inj h]
  | succ n ih =>
    obtain ⟨u, hn, hstep⟩ := stepTimes_split h
    exact (step_keeps_mem hstep).trans (ih hn)

/-! ### So does every command but LOAD -/

theorem applyCommand_keeps_mem {k : Command} {s t : State} {r : Response} (h : applyCommand k s = .next (t, r))
    (hload : ∀ img, k ≠ .load img) : t.mem = s.mem := by
  obtain ⟨-, rfl, -⟩ | ⟨img, hk, -⟩ | ⟨-, hstep, -⟩ | ⟨-, rfl, -⟩ := applyCommand_cases h
  · exact applyReset_mem s
  · exact absurd hk (hload img)
  · exact step_keeps_mem hstep
  · rfl

/-- Settles O33: no meaning writes memory, and by induction on the number of STEPs no run of them does. -/
theorem memoryIsReadOnlyToTheCore : Obligations.MemoryIsReadOnlyToTheCore :=
  ⟨fun _ _ _ h => sameBytes_of_mem_eq (exec_keeps_mem h),
    fun _ _ _ h => ⟨stepTimes_keeps_mem h, sameBytes_of_mem_eq (stepTimes_keeps_mem h)⟩⟩

/-- Settles O5: LOAD sets the memory and no other field, and every other command keeps the memory list. -/
theorem loadIsTheOnlyWriteOfMemory : Obligations.LoadIsTheOnlyWriteOfMemory :=
  ⟨fun img s => ⟨applyLoad img s, rfl, Memory.read_ofImage img, rfl, rfl, rfl, rfl, rfl, rfl, rfl, rfl, rfl, rfl⟩,
    fun _ _ _ _ h hload => sameBytes_of_mem_eq (applyCommand_keeps_mem h hload)⟩

end Sys2Proof.Machine


/-! PROOF. The encoding (spec/30_encoding.md R41 to R48). The decoder is said once per row of the opcode map; the encoder's byte
carries its opcode and operand in the two nibbles, so each row reads its own instruction back. -/

namespace Sys2Proof

/-! ### The decoder, one equation per row of the opcode map (R44) -/

theorem decode_of_opcode_car {b : Byte} (h : opcodeOf b = 0x0#4) : decode b = .instr (.car (operandOf b)) := by
  simp [decode, h]

theorem decode_of_opcode_som {b : Byte} (h : opcodeOf b = 0x1#4) : decode b = .instr (.som (operandOf b)) := by
  simp [decode, h]

theorem decode_of_opcode_sub {b : Byte} (h : opcodeOf b = 0x2#4) : decode b = .instr (.sub (operandOf b)) := by
  simp [decode, h]

theorem decode_of_opcode_sai {b : Byte} (h : opcodeOf b = 0xE#4) : decode b = .instr .sai := by simp [decode, h]

theorem decode_of_opcode_par {b : Byte} (h : opcodeOf b = 0xF#4) : decode b = .instr .par := by simp [decode, h]

/-- An opcode from 3 to 13 is none of the five instructions' (R46). -/
theorem decode_of_opcode_invalid {b : Byte} (hlo : 3 ≤ (opcodeOf b).toNat) (hhi : (opcodeOf b).toNat ≤ 13) :
    decode b = .invalid (opcodeOf b) := by
  obtain ⟨h, -⟩ | ⟨h, -⟩ | ⟨h, -⟩ | ⟨h, -⟩ | ⟨h, -⟩ | ⟨-, hdecode⟩ := decode_cases b
  case inr.inr.inr.inr.inr => exact hdecode
  all_goals simp [h] at hlo hhi

/-! ### The nibbles of a byte as numbers (R41) -/

theorem opcodeOf_eq_ofNat (b : Byte) : opcodeOf b = BitVec.ofNat 4 (b.toNat / 16) := by
  rw [← opcodeOf_toNat, BitVec.ofNat_toNat, BitVec.setWidth_eq]

theorem operandOf_eq_ofNat (b : Byte) : operandOf b = BitVec.ofNat 4 (b.toNat % 16) := by
  rw [← operandOf_toNat, BitVec.ofNat_toNat, BitVec.setWidth_eq]

/-- The byte {opcode, operand} as a number (R41). -/
theorem joinNibbles_toNat (op : Opcode) (a : Addr) : (joinNibbles op a).toNat = 16 * op.toNat + a.toNat := by
  have hop := opcodeOf_toNat (joinNibbles op a)
  have ha := operandOf_toNat (joinNibbles op a)
  rw [opcodeOf_joinNibbles] at hop
  rw [operandOf_joinNibbles] at ha
  omega

/-! ### The encoder (R48) -/

@[simp] theorem opcodeOf_encode (i : Instr) : opcodeOf (encode i) = opcodeFor i := opcodeOf_joinNibbles _ _

@[simp] theorem operandOf_encode (i : Instr) : operandOf (encode i) = operandFor i := operandOf_joinNibbles _ _

theorem encode_toNat (i : Instr) : (encode i).toNat = 16 * (opcodeFor i).toNat + (operandFor i).toNat :=
  joinNibbles_toNat _ _

theorem decode_encode (i : Instr) : decode (encode i) = .instr i := by
  cases i with
  | car a => rw [decode_of_opcode_car (opcodeOf_encode _), operandOf_encode, operandFor]
  | som a => rw [decode_of_opcode_som (opcodeOf_encode _), operandOf_encode, operandFor]
  | sub a => rw [decode_of_opcode_sub (opcodeOf_encode _), operandOf_encode, operandFor]
  | sai => exact decode_of_opcode_sai (opcodeOf_encode _)
  | par => exact decode_of_opcode_par (opcodeOf_encode _)

/-- Settles O10: each opcode's row of the decoder reads its own encoding back, and the byte is 16 times the opcode plus the
operand. -/
theorem encodedInstructionsDecodeBack : Obligations.EncodedInstructionsDecodeBack := by
  intro i
  refine ⟨decode_encode i, ?_⟩
  rw [encode_toNat]
  cases i <;> simp [opcodeFor, operandFor]

/-- Settles O12: the high nibble is the opcode and the low nibble the operand, so each clause is one row of the decoder. -/
theorem opcodeMapIsTheTable : Obligations.OpcodeMapIsTheTable := by
  intro b
  rw [← opcodeOf_eq_ofNat, ← operandOf_eq_ofNat, ← opcodeOf_toNat]
  exact ⟨fun h => decode_of_opcode_car (BitVec.eq_of_toNat_eq h), fun h => decode_of_opcode_som (BitVec.eq_of_toNat_eq h),
    fun h => decode_of_opcode_sub (BitVec.eq_of_toNat_eq h), fun h => decode_of_opcode_sai (BitVec.eq_of_toNat_eq h),
    fun h => decode_of_opcode_par (BitVec.eq_of_toNat_eq h), fun h => decode_of_opcode_invalid h.1 h.2⟩

end Sys2Proof


/-! PROOF. The assembler answers an image or the first failing line's error (spec/30_encoding.md R53, R55). Running the lines
is characterised both ways, by induction on the lines: it succeeds exactly along ValidLines, and fails exactly at a line that
fails after lines that do not. -/

namespace Sys2Proof.Machine

/-! ### Running the lines -/

theorem asmLines_ok_iff (n : Nat) (lines : List (List Char)) (st st' : AsmState) :
    asmLines n lines st = .ok st' ↔ ValidLines lines st st' := by
  induction lines generalizing n st with
  | nil => simp [asmLines, eq_comm]
  | cons line rest ih =>
    cases h : asmLine line st with
    | error k => simp [asmLines, h]
    | ok u => simp [asmLines, h, ih]

/-- A line that fails after lines that do not aborts the run with its own number and kind, whatever follows it. -/
theorem asmLines_of_first_failure {before : List (List Char)} {line : List Char} {st u : AsmState} {k : AsmErrorKind}
    (n : Nat) (after : List (List Char)) (hbefore : asmLines n before st = .ok u) (hline : asmLine line u = .error k) :
    asmLines n (before ++ line :: after) st = .error ⟨n + before.length, k⟩ := by
  simp [asmLines_append, hbefore, asmLines, hline]

/-- A run that fails has a first failing line, and its error is that line's. -/
theorem first_failure_of_asmLines_error {n : Nat} {lines : List (List Char)} {st : AsmState} {e : AsmError}
    (h : asmLines n lines st = .error e) :
    ∃ before after line u, lines = before ++ line :: after ∧ e.line = n + before.length ∧
      asmLines n before st = .ok u ∧ asmLine line u = .error e.kind := by
  induction lines generalizing n st with
  | nil => simp [asmLines] at h
  | cons line rest ih =>
    cases hline : asmLine line st with
    | error k =>
      simp only [asmLines, hline, Except.error.injEq] at h
      subst h
      exact ⟨[], rest, line, st, rfl, rfl, rfl, hline⟩
    | ok v =>
      simp only [asmLines, hline] at h
      obtain ⟨before, after, line', u, rfl, hnumber, hbefore, hline'⟩ := ih h
      refine ⟨line :: before, after, line', u, rfl, ?_, ?_, hline'⟩
      · simp only [List.length_cons]
        omega
      · simpa [asmLines, hline] using hbefore

/-! ### The whole source -/

theorem assemble_ok_iff {src : List Char} {img : Image} :
    assemble src = .ok img ↔ ∃ st, assembleState src = .ok st ∧ img = st.image := by
  cases h : assembleState src <;> simp [assemble, h, eq_comm]

theorem assemble_error_iff {src : List Char} {e : AsmError} :
    assemble src = .error e ↔ assembleState src = .error e := by
  cases h : assembleState src <;> simp [assemble, h]

/-- Settles O48: what holds of running the lines, read off the source's lines counted from 1. -/
theorem assembleReturnsAnImageOrTheFirstError : Obligations.AssembleReturnsAnImageOrTheFirstError := by
  refine ⟨asmLines_ok_iff, fun src => ⟨fun img => assemble_ok_iff, ?_, ?_⟩⟩
  · intro before after line st k hlines hbefore hline
    rw [assemble_error_iff, assembleState, hlines, asmLines_of_first_failure 1 after hbefore hline, Nat.add_comm]
  · intro e he
    obtain ⟨before, after, line, u, hlines, hnumber, hbefore, hline⟩ :=
      first_failure_of_asmLines_error (assemble_error_iff.1 he)
    exact ⟨before, after, line, u, hlines, by omega, hbefore, hline⟩

end Sys2Proof.Machine


/-! PROOF. The instruction cycle (spec/40_instruction_cycle.md R70, R72, R73, R76). Everything rests on what a STEP that fetches
leaves: PC one higher and IR the fetched byte, because neither the execute phase nor a terminal outcome writes PC or IR. -/

namespace Sys2Proof.Machine

/-! ### The execute phase leaves what the fetch set -/

/-- Every meaning answers a next state, and none writes PC, IR or the model's own resetSeen (R24). -/
theorem exec_answers_with_same_pc_ir (i : Instr) (s : State) :
    ∃ t, exec i s = .next t ∧ t.pc = s.pc ∧ t.ir = s.ir ∧ t.resetSeen = s.resetSeen := by
  cases i with
  | car a => exact ⟨_, execCar_next a s, rfl, rfl, rfl⟩
  | som a => exact ⟨_, execSom_next a s, rfl, rfl, rfl⟩
  | sub a => exact ⟨_, execSub_next a s, rfl, rfl, rfl⟩
  | sai => exact ⟨_, execSai_next s, rfl, rfl, rfl⟩
  | par => exact ⟨_, execPar_next s, rfl, rfl, rfl⟩

theorem exec_keeps_pc {i : Instr} {s t : State} (h : exec i s = .next t) : t.pc = s.pc := by
  obtain ⟨u, hu, hpc, -, -⟩ := exec_answers_with_same_pc_ir i s
  obtain rfl : t = u := Host.Outcome.next.inj (h.symm.trans hu)
  exact hpc

/-! ### A STEP by its guards -/

/-- The overflow check comes before the fetch, so this STEP only takes the outcome (R70). -/
theorem step_of_pcOverflow {s : State} (hreset : s.resetSeen = true) (hready : s.status = .ready)
    (hpc : 16 ≤ s.pc.toNat) : step s = .next (raisePcOverflow s) := by
  simp [step, issue, hreset, hready, hpc]

/-- What the fetch set is what the STEP leaves, whatever the byte decodes to. -/
theorem step_of_fetches {s : State} (hf : s.Fetches) :
    ∃ t, step s = .next t ∧ t.pc = s.pc + 1#5 ∧ t.ir = s.nextByte ∧ t.resetSeen = true := by
  simp only [step, issue_fetches hf, issueFetched]
  cases decode (fetch s).ir with
  | instr i =>
    obtain ⟨t, ht, hpc, hir, hreset⟩ := exec_answers_with_same_pc_ir i (fetch s)
    exact ⟨t, ht, hpc, hir, hreset.trans hf.afterReset⟩
  | invalid op => exact ⟨_, rfl, rfl, rfl, hf.afterReset⟩

/-- The same in numbers: PC does not wrap, and the byte stands at the numeric address PC (R72, R73). -/
theorem step_fetches_byteAtPc {s : State} (hf : s.Fetches) :
    ∃ t, step s = .next t ∧ t.pc.toNat = s.pc.toNat + 1 ∧ t.ir = s.byteAtPc ∧ t.resetSeen = true := by
  obtain ⟨t, ht, hpc, hir, hreset⟩ := step_of_fetches hf
  exact ⟨t, ht, by rw [hpc, pc_increment_toNat hf.inMemory], by rw [hir, nextByte_eq_byteAtPc hf.inMemory], hreset⟩

/-- Only a STEP that fetches leaves STATUS READY: the other outcomes are latched, or were so already. -/
theorem fetches_of_step_ready {s t : State} (h : step s = .next t) (hready : t.status = .ready) : s.Fetches := by
  obtain ⟨-, hlatched, rfl⟩ | ⟨-, -, -, rfl⟩ | ⟨hf, -⟩ | ⟨hf, -⟩ := step_cases h
  · exact absurd hready hlatched
  · cases hready
  · exact hf
  · exact hf

/-! ### Runs from RESET -/

/-- While a run from RESET is READY, each of its STEPs fetched, so PC counts them. -/
theorem stepTimes_applyReset_ready {k : Nat} {s t : State} (h : stepTimes k (applyReset s) = .next t)
    (hready : t.status = .ready) : t.pc.toNat = k ∧ t.resetSeen = true := by
  induction k generalizing t with
  | zero =>
    obtain rfl := Host.Outcome.next.inj h
    exact ⟨rfl, rfl⟩
  | succ k ih =>
    obtain ⟨u, hrun, hstep⟩ := stepTimes_split h
    have hf := fetches_of_step_ready hstep hready
    obtain ⟨t', ht', hpc, -, hreset⟩ := step_fetches_byteAtPc hf
    obtain rfl : t = t' := Host.Outcome.next.inj (hstep.symm.trans ht')
    obtain ⟨hk, -⟩ := ih hrun hf.ready
    exact ⟨by rw [hpc, hk], hreset⟩

/-- As long as a run from RESET is READY and inside memory, its next STEP fetches. -/
theorem fetches_of_stepTimes_applyReset {k : Nat} {s t : State} (h : stepTimes k (applyReset s) = .next t)
    (hready : t.status = .ready) (hk : k < 16) : t.Fetches := by
  obtain ⟨hpc, hreset⟩ := stepTimes_applyReset_ready h hready
  exact ⟨hreset, hready, by omega⟩

/-- The STEP after k READY ones fetches the byte at address k, which memory still holds as it did before the RESET. -/
theorem stepTimes_succ_applyReset {k : Nat} {s t : State} (h : stepTimes k (applyReset s) = .next t)
    (hready : t.status = .ready) (hk : k < 16) :
    ∃ u, stepTimes (k + 1) (applyReset s) = .next u ∧ u.ir = s.mem.byteAt k ∧ u.pc.toNat = k + 1 := by
  obtain ⟨u, hstep, hpc, hir, -⟩ := step_fetches_byteAtPc (fetches_of_stepTimes_applyReset h hready hk)
  obtain ⟨htk, -⟩ := stepTimes_applyReset_ready h hready
  have hmem : t.mem = s.mem := (stepTimes_keeps_mem h).trans (applyReset_mem s)
  refine ⟨u, (stepTimes_succ h).trans hstep, ?_, by rw [hpc, htk]⟩
  rw [hir, State.byteAtPc, hmem, htk]

/-- Settles O21: the fetch sets PC and IR before the opcode is looked at, and below 16 the increment does not wrap. -/
theorem everyFetchIncrementsPcAndLoadsIr : Obligations.EveryFetchIncrementsPcAndLoadsIr := by
  intro s hf
  obtain ⟨t, ht, hpc, hir, -⟩ := step_fetches_byteAtPc hf
  have := hf.inMemory
  exact ⟨t, ht, hpc, by omega, hir⟩

/-- Settles O37: no meaning writes PC, each STEP that fetches adds one, and by induction on the number of STEPs PC counts the
STEPs of a run from RESET. -/
theorem controlFlowIsStrictlySequential : Obligations.ControlFlowIsStrictlySequential := by
  refine ⟨fun _ _ _ => exec_keeps_pc, ?_, ?_⟩
  · intro s t hf h
    obtain ⟨u, hu, hpc, -⟩ := step_fetches_byteAtPc hf
    obtain rfl : t = u := Host.Outcome.next.inj (h.symm.trans hu)
    exact hpc
  · intro k s t h hready
    exact ⟨(stepTimes_applyReset_ready h hready).1, stepTimes_succ_applyReset h hready⟩

/-- Settles O27: the STEP ends at the overflow check, which sets STATUS alone. -/
theorem pcOverflowChangesOnlyStatus : Obligations.PcOverflowChangesOnlyStatus :=
  fun s hreset hready hpc => ⟨raisePcOverflow s, step_of_pcOverflow hreset hready hpc, rfl, rfl⟩

end Sys2Proof.Machine


/-! PROOF. The memory and ALU instructions CAR, SOM and SUB as whole STEPs (spec/41_memory_alu.md R79 to R81). Such a STEP is the
instruction's execute phase in the state after the fetch; what it writes is read off that phase, and the rest is the frame of
any STEP that fetches. -/

namespace Sys2Proof.Machine

/-! ### What a STEP that fetches runs and keeps -/

/-- A fetched instruction is executed in the state the fetch left (R67, R75). -/
theorem step_of_decode_instr {s : State} {i : Instr} (hf : s.Fetches) (hdecode : decode s.byteAtPc = .instr i) :
    step s = exec i (fetch s) := by
  rw [← nextByte_eq_byteAtPc hf.inMemory, State.nextByte] at hdecode
  simp only [step, issue_fetches hf, issueFetched, fetch_ir, hdecode]

/-- Whatever byte it fetches, the STEP leaves PC one higher and the byte in IR, and it writes no flag and no byte of memory
(R20, R30, R72, R73). -/
theorem step_fetches_frame {s t : State} (hf : s.Fetches) (h : step s = .next t) :
    t.pc.toNat = s.pc.toNat + 1 ∧ t.ir = s.byteAtPc ∧ SameFlags s t ∧ SameBytes s t := by
  obtain ⟨u, hu, hpc, hir, hreset⟩ := step_fetches_byteAtPc hf
  obtain rfl : t = u := Host.Outcome.next.inj (h.symm.trans hu)
  obtain ⟨hz, hc⟩ := step_keeps_flags h
  exact ⟨hpc, hir, ⟨hz, hc, hreset.trans hf.afterReset.symm⟩, sameBytes_of_mem_eq (step_keeps_mem h)⟩

theorem stepOutcome_of_ready {s : State} (h : s.status = .ready) : s.stepOutcome = .continued := by
  simp only [State.stepOutcome, h]

/-! ### The opcode and the operand of the fetched byte (R41, R44) -/

theorem read_operandOf (m : Memory) (b : Byte) : m.read (operandOf b) = m.byteAt (b.toNat % 16) := by
  rw [Memory.read, operandOf_toNat]

theorem opcodeOf_eq_of_div {b : Byte} {op : Opcode} (h : b.toNat / 16 = op.toNat) : opcodeOf b = op :=
  BitVec.eq_of_toNat_eq ((opcodeOf_toNat b).trans h)

/-! ### The three instructions -/

/-- Settles O22: CAR's execute phase writes AR and ACC, and B, OUT and STATUS are as the fetch left them. -/
theorem stepOnCarByte : Obligations.StepOnCarByte := by
  intro s hf hop
  have hdecode := decode_of_opcode_car (opcodeOf_eq_of_div hop)
  have hstep := (step_of_decode_instr hf hdecode).trans (execCar_next _ _)
  obtain ⟨hpc, hir, hflags, hbytes⟩ := step_fetches_frame hf hstep
  exact ⟨_, hstep, operandOf_toNat _, read_operandOf _ _, hpc, hir, rfl, rfl, hf.ready, stepOutcome_of_ready hf.ready,
    hflags, hbytes⟩

/-- Settles O23: SOM's execute phase writes AR, B and ACC, which gets the ALU's sum of the old ACC and the byte read. -/
theorem stepOnSomByte : Obligations.StepOnSomByte := by
  intro s hf hop
  have hdecode := decode_of_opcode_som (opcodeOf_eq_of_div hop)
  have hstep := (step_of_decode_instr hf hdecode).trans (execSom_next _ _)
  obtain ⟨hpc, hir, hflags, hbytes⟩ := step_fetches_frame hf hstep
  rw [← read_operandOf]
  exact ⟨_, hstep, operandOf_toNat _, rfl, aluAdd_toNat _ _, hpc, hir, rfl, hf.ready, stepOutcome_of_ready hf.ready,
    hflags, hbytes⟩

/-- Settles O24: SUB's execute phase writes AR, B and ACC, which gets the ALU's difference of the old ACC and the byte
read. -/
theorem stepOnSubByte : Obligations.StepOnSubByte := by
  intro s hf hop
  have hdecode := decode_of_opcode_sub (opcodeOf_eq_of_div hop)
  have hstep := (step_of_decode_instr hf hdecode).trans (execSub_next _ _)
  obtain ⟨hpc, hir, hflags, hbytes⟩ := step_fetches_frame hf hstep
  rw [← read_operandOf]
  exact ⟨_, hstep, operandOf_toNat _, rfl, aluSub_toNat _ _, hpc, hir, rfl, hf.ready, stepOutcome_of_ready hf.ready,
    hflags, hbytes⟩

end Sys2Proof.Machine


/-! PROOF. The output instruction SAI as a whole STEP (spec/42_output_halt.md R83). Its execute phase names no address, so AR
still holds what the fetch put there: the instruction's own. -/

namespace Sys2Proof.Machine

/-- AR after the fetch is the address the byte was fetched from, as PC is below 16 (R71). -/
theorem fetch_ar_toNat {s : State} (hf : s.Fetches) : (fetch s).ar.toNat = s.pc.toNat :=
  pcAddr_toNat hf.inMemory

/-- Settles O25: SAI's execute phase writes OUT alone, from an ACC the fetch left as it was, and AR, B and STATUS are as after
the fetch. -/
theorem stepOnSaiByte : Obligations.StepOnSaiByte := by
  intro s hf hop
  have hdecode := decode_of_opcode_sai (opcodeOf_eq_of_div hop)
  have hstep := (step_of_decode_instr hf hdecode).trans (execSai_next _)
  obtain ⟨hpc, hir, hflags, hbytes⟩ := step_fetches_frame hf hstep
  exact ⟨_, hstep, rfl, fetch_ar_toNat hf, hpc, hir, rfl, rfl, hf.ready, stepOutcome_of_ready hf.ready, hflags, hbytes⟩

end Sys2Proof.Machine


/-! PROOF. RESET clears the registers and keeps memory (spec/70_reset_and_hazards.md R100, R101). So what RESET leaves after a
command sequence depends on the sequence through its memory alone, which is followed as its list: only a LOAD replaces it. -/

namespace Sys2Proof.Machine

/-! ### RESET -/

theorem applyReset_registersReset (s : State) : (applyReset s).RegistersReset :=
  ⟨rfl, rfl, rfl, rfl, rfl, rfl, rfl, rfl, rfl⟩

/-- RESET reads nothing of a state but its memory. -/
theorem applyReset_eq_of_mem_eq {s t : State} (h : t.mem = s.mem) : applyReset t = applyReset s := by
  simp only [applyReset, h]

/-- Settles O2: RESET answers the reset registers over the memory it finds. -/
theorem resetClearsEveryRegisterAndKeepsMemory : Obligations.ResetClearsEveryRegisterAndKeepsMemory :=
  fun s => ⟨applyReset s, rfl, applyReset_registersReset s, sameBytes_of_mem_eq (applyReset_mem s)⟩

/-! ### The memory after a command sequence -/

/-- The memory that the last LOAD of a command sequence gives, or else the one it starts with. -/
def memAfter (ks : List Command) (m : Memory) : Memory := ((lastLoad ks).map Memory.ofImage).getD m

/-- A LOAD only counts for the commands after it where none of them is a LOAD. -/
theorem memAfter_load_cons (img : Image) (ks : List Command) (m : Memory) :
    memAfter (.load img :: ks) m = memAfter ks (Memory.ofImage img) := by
  simp only [memAfter, lastLoad]
  cases lastLoad ks <;> rfl

theorem memAfter_cons_of_not_load {k : Command} (hload : ∀ img, k ≠ .load img) (ks : List Command) (m : Memory) :
    memAfter (k :: ks) m = memAfter ks m := by
  cases k with
  | load img => exact absurd rfl (hload img)
  | reset => rfl
  | step => rfl
  | snapshot => rfl

theorem read_memAfter (ks : List Command) (m : Memory) (a : Addr) :
    (memAfter ks m).read a =
      match lastLoad ks with
      | some img => img[a.toNat]'a.isLt
      | none => m.read a := by
  unfold memAfter
  cases lastLoad ks with
  | none => rfl
  | some img => exact Memory.read_ofImage img a

/-- One command: a LOAD leaves its image, and any other command the memory it finds. -/
theorem memAfter_cons_of_applyCommand {k : Command} {s u : State} {r : Response} (h : applyCommand k s = .next (u, r))
    (ks : List Command) : memAfter (k :: ks) s.mem = memAfter ks u.mem := by
  by_cases hload : ∃ img, k = .load img
  · obtain ⟨img, rfl⟩ := hload
    obtain ⟨rfl, -⟩ := Prod.mk.inj (Host.Outcome.next.inj h)
    exact memAfter_load_cons img ks s.mem
  · have hload : ∀ img, k ≠ .load img := not_exists.1 hload
    rw [memAfter_cons_of_not_load hload, applyCommand_keeps_mem h hload]

theorem applyCommands_mem {ks : List Command} {s t : State} {rs : List Response}
    (h : applyCommands ks s = .next (t, rs)) : t.mem = memAfter ks s.mem := by
  induction ks generalizing s rs with
  | nil =>
    obtain ⟨rfl, -⟩ := Prod.mk.inj (Host.Outcome.next.inj h)
    rfl
  | cons k ks ih =>
    obtain ⟨u, r, rs', hk, hks, -⟩ := applyCommands_cons h
    exact (ih hks).trans (memAfter_cons_of_applyCommand hk ks).symm

/-- Settles O4: RESET depends on the history through memory alone, which by induction on the sequence is the last LOAD's, and
RESET leaves that memory for a second one. -/
theorem resetForgetsHistory : Obligations.ResetForgetsHistory := by
  intro ks s t rs h
  refine ⟨applyReset_registersReset t, applyReset_eq_of_mem_eq (applyReset_mem t), fun a => ?_⟩
  rw [applyReset_mem, applyCommands_mem h]
  exact read_memAfter ks s.mem a

end Sys2Proof.Machine

/-! PROOF. A STEP that fetches, said once per row of the opcode map (spec/40_instruction_cycle.md R75). What holds of every
STEP by its fetched byte is read off these rows. -/

namespace Sys2Proof

/-- The opcode map covers every byte (R44, R46). -/
theorem opcode_number_cases (b : Byte) :
    b.toNat / 16 = 0x0 ∨ b.toNat / 16 = 0x1 ∨ b.toNat / 16 = 0x2 ∨ b.toNat / 16 = 0xE ∨ b.toNat / 16 = 0xF ∨
    (0x3 ≤ b.toNat / 16 ∧ b.toNat / 16 ≤ 0xD) := by
  have := b.isLt
  omega

end Sys2Proof

namespace Sys2Proof.Machine

/-! ### One equation per row of the opcode map (R44, R75), in the fields of the state after the fetch -/

section
variable {s : State} (hf : s.Fetches)
include hf

theorem step_of_car_byte (hop : s.byteAtPc.toNat / 16 = 0x0) :
    step s = .next { fetch s with ar := operandOf s.byteAtPc, acc := s.mem.read (operandOf s.byteAtPc) } :=
  (step_of_decode_instr hf (decode_of_opcode_car (opcodeOf_eq_of_div hop))).trans (execCar_next _ _)

theorem step_of_som_byte (hop : s.byteAtPc.toNat / 16 = 0x1) :
    step s = .next { fetch s with ar := operandOf s.byteAtPc, b := s.mem.read (operandOf s.byteAtPc),
                                  acc := aluAdd s.acc (s.mem.read (operandOf s.byteAtPc)) } :=
  (step_of_decode_instr hf (decode_of_opcode_som (opcodeOf_eq_of_div hop))).trans (execSom_next _ _)

theorem step_of_sub_byte (hop : s.byteAtPc.toNat / 16 = 0x2) :
    step s = .next { fetch s with ar := operandOf s.byteAtPc, b := s.mem.read (operandOf s.byteAtPc),
                                  acc := aluSub s.acc (s.mem.read (operandOf s.byteAtPc)) } :=
  (step_of_decode_instr hf (decode_of_opcode_sub (opcodeOf_eq_of_div hop))).trans (execSub_next _ _)

theorem step_of_sai_byte (hop : s.byteAtPc.toNat / 16 = 0xE) : step s = .next { fetch s with out := s.acc } :=
  (step_of_decode_instr hf (decode_of_opcode_sai (opcodeOf_eq_of_div hop))).trans (execSai_next _)

theorem step_of_par_byte (hop : s.byteAtPc.toNat / 16 = 0xF) : step s = .next { fetch s with status := .halted } :=
  (step_of_decode_instr hf (decode_of_opcode_par (opcodeOf_eq_of_div hop))).trans (execPar_next _)

theorem step_of_invalid_byte (hlo : 0x3 ≤ s.byteAtPc.toNat / 16) (hhi : s.byteAtPc.toNat / 16 ≤ 0xD) :
    step s = .next { fetch s with status := .faultInvalidOpcode } := by
  rw [← opcodeOf_toNat] at hlo hhi
  have hdecode := decode_of_opcode_invalid hlo hhi
  rw [← nextByte_eq_byteAtPc hf.inMemory, State.nextByte] at hdecode
  simp only [step, issue_fetches hf, issueFetched, fetch_ir, hdecode]
  rfl

end

/-- What a STEP that fetches leaves in STATUS, by the opcode; where that is latched, AR is the byte's own address (R84,
R86). -/
theorem step_fetches_status {s t : State} (hf : s.Fetches) (h : step s = .next t) :
    (s.byteAtPc.toNat / 16 ∈ [0x0, 0x1, 0x2, 0xE] ∧ t.status = .ready) ∨
    (s.byteAtPc.toNat / 16 = 0xF ∧ t.status = .halted ∧ t.ar = s.pcAddr) ∨
    (0x3 ≤ s.byteAtPc.toNat / 16 ∧ s.byteAtPc.toNat / 16 ≤ 0xD ∧ t.status = .faultInvalidOpcode ∧ t.ar = s.pcAddr) := by
  obtain hop | hop | hop | hop | hop | ⟨hlo, hhi⟩ := opcode_number_cases s.byteAtPc
  · obtain rfl := Host.Outcome.next.inj (h.symm.trans (step_of_car_byte hf hop))
    exact .inl ⟨by simp [hop], hf.ready⟩
  · obtain rfl := Host.Outcome.next.inj (h.symm.trans (step_of_som_byte hf hop))
    exact .inl ⟨by simp [hop], hf.ready⟩
  · obtain rfl := Host.Outcome.next.inj (h.symm.trans (step_of_sub_byte hf hop))
    exact .inl ⟨by simp [hop], hf.ready⟩
  · obtain rfl := Host.Outcome.next.inj (h.symm.trans (step_of_sai_byte hf hop))
    exact .inl ⟨by simp [hop], hf.ready⟩
  · obtain rfl := Host.Outcome.next.inj (h.symm.trans (step_of_par_byte hf hop))
    exact .inr (.inl ⟨hop, rfl, rfl⟩)
  · obtain rfl := Host.Outcome.next.inj (h.symm.trans (step_of_invalid_byte hf hlo hhi))
    exact .inr (.inr ⟨hlo, hhi, rfl, rfl⟩)

end Sys2Proof.Machine

/-! PROOF. The tier 1 facts of single instructions and commands, each a case of an equation the model's laws already state. -/

namespace Sys2Proof.Machine

/-! ### The execute phase (R79 to R84): what each meaning's next state writes, and that it keeps the rest -/

/-- Settles O15: CAR's next state differs from the state before in AR and ACC alone. -/
theorem carLoadsTheAccumulator : Obligations.CarLoadsTheAccumulator :=
  fun a s => ⟨_, execCar_next a s, rfl, rfl, rfl, rfl, rfl, rfl, rfl, ⟨rfl, rfl, rfl⟩, fun _ => rfl⟩

/-- Settles O16: SOM's next state differs in AR, B and ACC alone, and the ALU's sum is reduced modulo 256. -/
theorem somAddsToTheAccumulator : Obligations.SomAddsToTheAccumulator :=
  fun a s => ⟨_, execSom_next a s, rfl, rfl, aluAdd_toNat _ _, rfl, rfl, rfl, rfl, ⟨rfl, rfl, rfl⟩, fun _ => rfl⟩

/-- Settles O17: SUB's next state differs in AR, B and ACC alone, and the ALU's difference is reduced modulo 256. -/
theorem subSubtractsFromTheAccumulator : Obligations.SubSubtractsFromTheAccumulator :=
  fun a s => ⟨_, execSub_next a s, rfl, rfl, aluSub_toNat _ _, rfl, rfl, rfl, rfl, ⟨rfl, rfl, rfl⟩, fun _ => rfl⟩

/-- Settles O18: SAI's next state differs in OUT alone. -/
theorem saiCopiesTheAccumulatorToOut : Obligations.SaiCopiesTheAccumulatorToOut :=
  fun s => ⟨_, execSai_next s, rfl, rfl, rfl, rfl, rfl, rfl, rfl, ⟨rfl, rfl, rfl⟩, fun _ => rfl⟩

/-- Settles O19: PAR's next state differs in STATUS alone. -/
theorem parHaltsAndChangesNoRegister : Obligations.ParHaltsAndChangesNoRegister :=
  fun s => ⟨_, execPar_next s, rfl, rfl, rfl, rfl, rfl, rfl, rfl, ⟨rfl, rfl, rfl⟩, fun _ => rfl⟩

/-- Settles O20: the byte fetched through AR is the byte at PC, and the state executed in is the one the fetch leaves. -/
theorem stepRunsTheDecodedInstruction : Obligations.StepRunsTheDecodedInstruction := by
  intro s i hf hdecode
  rw [nextByte_eq_byteAtPc hf.inMemory] at hdecode
  exact step_of_decode_instr hf hdecode

/-- Settles O13: each word falls in its opcode's row of the decoder. -/
theorem writtenOutWordsDecode : Obligations.WrittenOutWordsDecode :=
  ⟨decode_of_opcode_car rfl, decode_of_opcode_som rfl, decode_of_opcode_sub rfl, decode_of_opcode_sai rfl,
    decode_of_opcode_par rfl, decode_of_opcode_invalid (by decide) (by decide),
    decode_of_opcode_invalid (by decide) (by decide)⟩

/-! ### RESET, LOAD and SNAPSHOT -/

/-- Settles O3: the constant's registers are those RESET leaves, and RESET adds to them only the memory it finds. -/
theorem resetStateHoldsTheResetValues : Obligations.ResetStateHoldsTheResetValues :=
  ⟨applyReset_registersReset State.reset, fun s hmem => applyReset_eq_of_mem_eq (t := s) (s := State.reset) hmem⟩

/-- LOAD writes memory alone and RESET everything else, so their order does not matter (R103). -/
theorem applyLoad_applyReset (img : Image) (s : State) : applyLoad img (applyReset s) = applyReset (applyLoad img s) := rfl

/-- Settles O6: the two states are equal, and either sequence's answers are two times done. -/
theorem resetAndLoadCommute : Obligations.ResetAndLoadCommute := by
  intro img s
  simp only [applyCommands, applyCommand, applyLoad_applyReset]

/-- Settles O8: SNAPSHOT's view copies the registers and STATUS's code, and its image holds the bytes of memory. -/
theorem snapshotReadsEverythingAndChangesNothing : Obligations.SnapshotReadsEverythingAndChangesNothing :=
  fun s => ⟨s.snapshot, rfl, rfl, rfl, rfl, rfl, rfl, rfl, rfl, rfl, rfl, fun a => s.mem.toImage_getElem a.toNat a.isLt⟩

end Sys2Proof.Machine


/-! PROOF. What a STEP does and leaves by the byte it fetches (spec/60_exceptions.md R85, R86, R91, spec/10_state.md R24). -/

namespace Sys2Proof.Machine

/-! ### The latch (R91) -/

/-- A terminal outcome is latched: STATUS is not READY, after a RESET. -/
structure State.Latched (s : State) : Prop where
  afterReset : s.resetSeen = true
  terminal : s.status ≠ .ready

theorem step_of_latched {s : State} (h : s.Latched) : step s = .next s := by
  simp [step, issue, h.afterReset, h.terminal]

/-- The command STEP in a latched state answers the outcome that STATUS and IR hold. -/
theorem applyCommand_step_of_latched {s : State} (h : s.Latched) :
    applyCommand .step s = .next (s, .outcome s.stepOutcome) := by
  simp only [applyCommand, step_of_latched h, mapNext]

/-- Settles O29: each of the three values of STATUS is a latched one, and names its outcome. -/
theorem latchedStepReturnsTheSameOutcome : Obligations.LatchedStepReturnsTheSameOutcome := by
  intro s hreset
  refine ⟨fun h => ?_, fun h => ?_, fun h => ?_⟩ <;>
    simp [applyCommand_step_of_latched ⟨hreset, by simp [h]⟩, State.stepOutcome, h]

/-! ### The two terminal outcomes of a fetched byte -/

/-- Settles O28: the STEP ends in the state after the fetch with STATUS latched, and IR holds the byte whose opcode it
reports. -/
theorem invalidOpcodeLeavesTheFetchedState : Obligations.InvalidOpcodeLeavesTheFetchedState := by
  intro s hf hlo hhi
  have hstep := step_of_invalid_byte hf hlo hhi
  obtain ⟨hpc, hir, hflags, hbytes⟩ := step_fetches_frame hf hstep
  refine ⟨_, hstep, rfl, ?_, fetch_ar_toNat hf, hpc, hir, rfl, rfl, rfl, hflags, hbytes⟩
  rw [← opcodeOf_eq_ofNat, ← hir]
  rfl

/-- Settles O26: PAR's execute phase latches HALTED in the state after the fetch, so a further STEP is ignored. -/
theorem stepOnParByte : Obligations.StepOnParByte := by
  intro s hf hop
  have hstep := step_of_par_byte hf hop
  obtain ⟨hpc, hir, hflags, hbytes⟩ := step_fetches_frame hf hstep
  exact ⟨_, hstep, rfl, rfl, step_of_latched ⟨hf.afterReset, by simp⟩, fetch_ar_toNat hf, hpc, hir, rfl, rfl, rfl, hflags,
    hbytes⟩

/-! ### Every STEP's outcome (R85) -/

/-- After a RESET every STEP answers a next state: it is latched, past memory, or it fetches. -/
theorem step_answers {s : State} (hreset : s.resetSeen = true) : ∃ t, step s = .next t ∧ t.resetSeen = true := by
  obtain ⟨hnot, -⟩ | ⟨-, hstatus, -⟩ | ⟨-, hready, hpc, -⟩ | ⟨hf, -⟩ := issue_cases s
  · simp [hreset] at hnot
  · exact ⟨s, step_of_latched ⟨hreset, hstatus⟩, hreset⟩
  · exact ⟨_, step_of_pcOverflow hreset hready hpc, hreset⟩
  · obtain ⟨t, ht, -, -, htreset⟩ := step_of_fetches hf
    exact ⟨t, ht, htreset⟩

theorem stepOutcome_code (s : State) : s.stepOutcome.code = s.status.code := by
  cases h : s.status <;> simp only [State.stepOutcome, h] <;> rfl

/-- Settles O31: a STEP that fetches leaves READY, HALTED or the invalid-opcode fault by the opcode's range, and the three
ranges exclude each other. -/
theorem everyStepReturnsOneOfFourOutcomes : Obligations.EveryStepReturnsOneOfFourOutcomes := by
  intro s hreset
  obtain ⟨t, ht, -⟩ := step_answers hreset
  refine ⟨t, ht, stepOutcome_code t, fun hf => ?_⟩
  obtain ⟨hop, hstatus⟩ | ⟨hop, hstatus, -⟩ | ⟨hlo, hhi, hstatus, -⟩ := step_fetches_status hf ht <;>
    simp only [State.stepOutcome, hstatus, List.mem_cons, List.not_mem_nil, or_false]
  · simp only [List.mem_cons, List.not_mem_nil, or_false] at hop
    exact ⟨by simpa using hop, by simp; omega, by simp; omega, by simp⟩
  · simp [hop]
  · exact ⟨by simp; omega, by simp; omega, by simp; omega, by simp⟩

/-! ### Write sets and read sets (R24) -/

/-- A STEP that answers a next state is ignored, only latches the overflow, or fetches. -/
theorem step_latched_or_overflow_or_fetches {s t : State} (h : step s = .next t) :
    t = s ∨ (s.resetSeen = true ∧ s.status = .ready ∧ 16 ≤ s.pc.toNat ∧ t = { s with status := .faultPcOverflow }) ∨
    s.Fetches := by
  obtain ⟨-, -, rfl⟩ | ⟨hreset, hready, hpc, rfl⟩ | ⟨hf, -⟩ | ⟨hf, -⟩ := step_cases h
  · exact .inl rfl
  · exact .inr (.inl ⟨hreset, hready, hpc, rfl⟩)
  · exact .inr (.inr hf)
  · exact .inr (.inr hf)

/-- The flags and the memory are in no STEP's write set. -/
theorem step_keeps_flags_and_bytes {s t : State} (h : step s = .next t) : SameFlags s t ∧ SameBytes s t := by
  refine ⟨⟨(step_keeps_flags h).1, (step_keeps_flags h).2, ?_⟩, sameBytes_of_mem_eq (step_keeps_mem h)⟩
  obtain rfl | ⟨-, -, -, rfl⟩ | hf := step_latched_or_overflow_or_fetches h
  · rfl
  · rfl
  · obtain ⟨-, -, hflags, -⟩ := step_fetches_frame hf h
    exact hflags.2.2

/-- Settles O34: an ignored STEP and an overflow change at most STATUS; a STEP that fetches changes what its opcode's row
names. -/
theorem stepsWriteOnlyTheirSets : Obligations.StepsWriteOnlyTheirSets := by
  intro s t h
  have hframe := step_keeps_flags_and_bytes h
  obtain rfl | ⟨hreset, hready, hpc, rfl⟩ | hf := step_latched_or_overflow_or_fetches h
  · simpa using hframe
  · exact ⟨by simp, by simp, by simp, by simp, fun _ => ⟨hreset, hready, .inl ⟨hpc, rfl⟩⟩, hframe⟩
  · obtain hop | hop | hop | hop | hop | ⟨hlo, hhi⟩ := opcode_number_cases s.byteAtPc
    · obtain rfl := Host.Outcome.next.inj (h.symm.trans (step_of_car_byte hf hop))
      exact ⟨by simp [hf, hop], by simp, by simp, fun _ => hf, by simp, hframe⟩
    · obtain rfl := Host.Outcome.next.inj (h.symm.trans (step_of_som_byte hf hop))
      exact ⟨by simp [hf, hop], by simp [hf, hop], by simp, fun _ => hf, by simp, hframe⟩
    · obtain rfl := Host.Outcome.next.inj (h.symm.trans (step_of_sub_byte hf hop))
      exact ⟨by simp [hf, hop], by simp [hf, hop], by simp, fun _ => hf, by simp, hframe⟩
    · obtain rfl := Host.Outcome.next.inj (h.symm.trans (step_of_sai_byte hf hop))
      exact ⟨by simp, by simp, by simp [hf, hop], fun _ => hf, by simp, hframe⟩
    · obtain rfl := Host.Outcome.next.inj (h.symm.trans (step_of_par_byte hf hop))
      exact ⟨by simp, by simp, by simp, fun _ => hf,
        fun _ => ⟨hf.afterReset, hf.ready, .inr (.inl ⟨hf, hop, rfl⟩)⟩, hframe⟩
    · obtain rfl := Host.Outcome.next.inj (h.symm.trans (step_of_invalid_byte hf hlo hhi))
      exact ⟨by simp, by simp, by simp, fun _ => hf,
        fun _ => ⟨hf.afterReset, hf.ready, .inr (.inr ⟨hf, hlo, hhi, rfl⟩)⟩, hframe⟩

/-- Two states with the same PC and memory bytes fetch the same byte. -/
theorem byteAtPc_eq_of_sameBytes {s t : State} (hf : s.Fetches) (hpc : s.pc = t.pc) (hbytes : SameBytes s t) :
    t.byteAtPc = s.byteAtPc := by
  have hread : t.nextByte = s.nextByte := by
    simpa only [State.nextByte, State.pcAddr, hpc] using hbytes s.pcAddr
  rwa [nextByte_eq_byteAtPc hf.inMemory, nextByte_eq_byteAtPc (hpc ▸ hf.inMemory)] at hread

/-- Settles O35: both states fetch the same byte, and what its row of the STEP writes is made of PC, ACC and memory alone. -/
theorem stepsReadOnlyPcAccAndMemory : Obligations.StepsReadOnlyPcAccAndMemory := by
  intro s t hs ht hpc hacc hbytes
  have hbyte := byteAtPc_eq_of_sameBytes hs hpc hbytes
  have hread : ∀ a, t.mem.read a = s.mem.read a := hbytes
  obtain hop | hop | hop | hop | hop | ⟨hlo, hhi⟩ := opcode_number_cases s.byteAtPc
  · refine ⟨_, _, step_of_car_byte hs hop, step_of_car_byte ht (by rwa [hbyte]), ?_⟩
    simp [hpc, hread, hop, hbyte, State.pcAddr, hs.ready, ht.ready]
  · refine ⟨_, _, step_of_som_byte hs hop, step_of_som_byte ht (by rwa [hbyte]), ?_⟩
    simp [hpc, hread, hop, hbyte, hacc, State.pcAddr, hs.ready, ht.ready]
  · refine ⟨_, _, step_of_sub_byte hs hop, step_of_sub_byte ht (by rwa [hbyte]), ?_⟩
    simp [hpc, hread, hop, hbyte, hacc, State.pcAddr, hs.ready, ht.ready]
  · refine ⟨_, _, step_of_sai_byte hs hop, step_of_sai_byte ht (by rwa [hbyte]), ?_⟩
    simp [hpc, hread, hop, hacc, State.pcAddr, hs.ready, ht.ready]
  · refine ⟨_, _, step_of_par_byte hs hop, step_of_par_byte ht (by rwa [hbyte]), ?_⟩
    simp [hpc, hread, hop, hacc, State.pcAddr]
  · refine ⟨_, _, step_of_invalid_byte hs hlo hhi, step_of_invalid_byte ht (by rwa [hbyte]) (by rwa [hbyte]), ?_⟩
    simp [hpc, hread, hacc, State.pcAddr]
    omega

/-- Settles O36: SAI and PAR leave the state after the fetch with OUT or STATUS written, in which only IR shows the operand
bits. -/
theorem ignoredOperandBitsHaveNoEffect : Obligations.IgnoredOperandBitsHaveNoEffect := by
  intro s m hf hop hm
  have hf' : State.Fetches { s with mem := m } := ⟨hf.afterReset, hf.ready, hf.inMemory⟩
  have hir : m.read s.pcAddr = m.byteAt s.pc.toNat := nextByte_eq_byteAtPc hf'.inMemory
  rw [← hm] at hop
  rw [← hir]
  obtain hop | hop := hop
  · exact ⟨_, step_of_sai_byte hf (hm ▸ hop), step_of_sai_byte hf' hop⟩
  · exact ⟨_, step_of_par_byte hf (hm ▸ hop), step_of_par_byte hf' hop⟩

end Sys2Proof.Machine


/-! PROOF. The invariant (State.Inv): every STEP keeps it, RESET establishes it and every command sequence keeps it
(spec/10_state.md R14, R20, spec/60_exceptions.md R84, R86, R87). -/

namespace Sys2Proof.Machine

/-! ### The STEP -/

/-- A STEP that fetches keeps the invariant: PC is at most 16 after the increment, and where it latches an outcome IR holds
the byte that called for it and AR the address before PC. -/
theorem step_fetches_keeps_inv {s t : State} (hs : s.Inv) (hf : s.Fetches) (h : step s = .next t) : t.Inv := by
  obtain ⟨hpc, hir, ⟨hz, hc, hreset⟩, -⟩ := step_fetches_frame hf h
  have hreset : t.resetSeen = true := hreset.trans hs.afterReset
  have hmem : t.mem.wf = true := by rw [step_keeps_mem h, hs.memory]
  have hrange : t.pc.toNat ≤ 16 := by have := hf.inMemory; omega
  have hflags : t.flagsClear = true := by rw [flagsClear_eq_of_flags_eq ⟨hz, hc⟩, hs.flags]
  have hown : t.ar = s.pcAddr → t.pc.toNat = t.ar.toNat + 1 := fun har => by rw [hpc, har, pcAddr_toNat hf.inMemory]
  obtain ⟨-, hstatus⟩ | ⟨hop, hstatus, har⟩ | ⟨hlo, hhi, hstatus, har⟩ := step_fetches_status hf h
  · exact ⟨hreset, hmem, hrange, hflags, by simp [hstatus], by simp [hstatus], by simp [hstatus]⟩
  · exact ⟨hreset, hmem, hrange, hflags, fun _ => ⟨hir ▸ opcodeOf_eq_of_div hop, hown har⟩, by simp [hstatus],
      by simp [hstatus]⟩
  · exact ⟨hreset, hmem, hrange, hflags, by simp [hstatus],
      fun _ => ⟨by rw [hir, opcodeOf_toNat]; exact ⟨hlo, hhi⟩, hown har⟩, by simp [hstatus]⟩

/-- Settles O42: a latched state steps to itself, an overflow from PC <= 16 is one at 16, and a STEP that fetches leaves what
the invariant says of each outcome. -/
theorem stepKeepsTheInvariant : Obligations.StepKeepsTheInvariant := by
  intro s t hs h
  obtain rfl | ⟨hreset, -, hpc, rfl⟩ | hf := step_latched_or_overflow_or_fetches h
  · exact hs
  · exact ⟨hreset, hs.memory, hs.pcRange, hs.flags, by simp, by simp, fun _ => by have := hs.pcRange; dsimp only; omega⟩
  · exact step_fetches_keeps_inv hs hf h

/-! ### RESET and command sequences -/

theorem applyReset_inv {s : State} (h : s.mem.wf = true) : (applyReset s).Inv :=
  ⟨rfl, h, by simp, rfl, by simp, by simp, by simp⟩

/-- LOAD replaces the memory by one in canonical form, and the rest of the invariant does not speak of it. -/
theorem applyLoad_keeps_inv (img : Image) {s : State} (hs : s.Inv) : (applyLoad img s).Inv :=
  { hs with memory := Memory.ofImage_wf img }

theorem applyCommand_keeps_inv {k : Command} {s t : State} {r : Response} (hs : s.Inv)
    (h : applyCommand k s = .next (t, r)) : t.Inv := by
  obtain ⟨-, rfl, -⟩ | ⟨img, -, rfl, -⟩ | ⟨-, hstep, -⟩ | ⟨-, rfl, -⟩ := applyCommand_cases h
  · exact applyReset_inv hs.memory
  · exact applyLoad_keeps_inv img hs
  · exact stepKeepsTheInvariant s t hs hstep
  · exact hs

theorem applyCommands_keep_inv {ks : List Command} {s t : State} {rs : List Response} (hs : s.Inv)
    (h : applyCommands ks s = .next (t, rs)) : t.Inv := by
  induction ks generalizing s rs with
  | nil =>
    obtain ⟨rfl, -⟩ := Prod.mk.inj (Host.Outcome.next.inj h)
    exact hs
  | cons k ks ih =>
    obtain ⟨u, r, rs', hk, hks, -⟩ := applyCommands_cons h
    exact ih (applyCommand_keeps_inv hs hk) hks

/-- Settles O41: the constant is what RESET gives it itself, and its memory, which lists nothing, is canonical. -/
theorem invariantHoldsAtReset : Obligations.InvariantHoldsAtReset := applyReset_inv (s := State.reset) rfl

/-- Settles O43: RESET needs a canonical memory, which the power-on memory is, and by induction on the sequence each command
keeps the invariant. -/
theorem resetEstablishesAndCommandsKeepTheInvariant : Obligations.ResetEstablishesAndCommandsKeepTheInvariant :=
  ⟨fun _ => applyReset_inv, fun p => applyReset_inv (Memory.ofImage_wf p.memory), fun _ _ _ _ => applyCommands_keep_inv⟩

end Sys2Proof.Machine


/-! PROOF. Command sequences without RESET: before the first RESET (spec/10_state.md R26, D5) and in a terminal outcome
(spec/60_exceptions.md R92). Both rest on one fact: where no STEP does anything, such a sequence changes memory alone. -/

namespace Sys2Proof.Machine

/-! ### Sequences that change memory alone -/

/-- Without RESET, and with STEPs only in a latched state, a sequence leaves everything but the memory, which is the last
LOAD's, and its STEPs answer the latched outcome. -/
theorem applyCommands_change_only_mem {ks : List Command} {s : State} (hreset : Command.reset ∉ ks)
    (hstep : Command.step ∈ ks → s.Latched) :
    ∃ rs, applyCommands ks s = .next ({ s with mem := memAfter ks s.mem }, rs) ∧
      ∀ o, Response.outcome o ∈ rs → o = s.stepOutcome := by
  induction ks generalizing s with
  | nil => exact ⟨[], rfl, by simp⟩
  | cons k ks ih =>
    simp only [List.mem_cons, not_or] at hreset hstep
    obtain ⟨hk, hreset⟩ := hreset
    cases k with
    | reset => exact absurd rfl hk
    | load img =>
      obtain ⟨rs, hrest, hout⟩ := ih (s := applyLoad img s) hreset fun h => ⟨(hstep (.inr h)).1, (hstep (.inr h)).2⟩
      refine ⟨.done :: rs, ?_, fun o ho => hout o (by simpa using ho)⟩
      rw [memAfter_load_cons]
      exact applyCommands_cons_of rfl hrest
    | step =>
      obtain ⟨rs, hrest, hout⟩ := ih hreset fun h => hstep (.inr h)
      refine ⟨.outcome s.stepOutcome :: rs, ?_, by simpa using hout⟩
      exact applyCommands_cons_of (applyCommand_step_of_latched (hstep (.inl rfl))) hrest
    | snapshot =>
      obtain ⟨rs, hrest, hout⟩ := ih hreset fun h => hstep (.inr h)
      exact ⟨.view s.snapshot :: rs, applyCommands_cons_of rfl hrest, by simpa using hout⟩

/-- Settles O30: in a terminal outcome every STEP of the sequence is in a latched state, so memory alone changes. -/
theorem onlyResetLeavesATerminalOutcome : Obligations.OnlyResetLeavesATerminalOutcome := by
  intro ks s hafter hterminal hreset
  obtain ⟨rs, h, hout⟩ := applyCommands_change_only_mem hreset fun _ => State.Latched.mk hafter hterminal
  exact ⟨_, rs, h, rfl, hout, applyReset_registersReset _⟩

/-! ### Before the first RESET -/

theorem applyCommand_step_before_reset {s : State} (h : s.resetSeen = false) :
    applyCommand .step s = .refused .stepBeforeReset := by
  simp [applyCommand, step, issue, h, mapNext]

/-- The first STEP of the sequence is refused: what comes before it, LOAD and SNAPSHOT, is no RESET. -/
theorem applyCommands_refused_before_reset {ks : List Command} {s : State} (h : s.resetSeen = false)
    (hreset : Command.reset ∉ ks) (hstep : Command.step ∈ ks) : applyCommands ks s = .refused .stepBeforeReset := by
  induction ks generalizing s with
  | nil => cases hstep
  | cons k ks ih =>
    simp only [List.mem_cons, not_or] at hreset
    obtain ⟨hk, hreset⟩ := hreset
    cases k with
    | reset => exact absurd rfl hk
    | load img =>
      have hrest := ih (s := applyLoad img s) h hreset (by simpa using hstep)
      simp only [applyCommands, applyCommand, hrest, mapNext]
    | step => simp only [applyCommands, applyCommand_step_before_reset h]
    | snapshot =>
      have hrest := ih h hreset (by simpa using hstep)
      simp only [applyCommands, applyCommand, hrest, mapNext]

/-- Settles O1: at power-on no RESET was seen, so a STEP is refused, and without one memory alone changes, to the last
LOAD's. -/
theorem stepsBeforeTheFirstResetAreRefused : Obligations.StepsBeforeTheFirstResetAreRefused := by
  intro p ks hreset
  refine ⟨applyCommands_refused_before_reset rfl hreset, fun hstep => ?_⟩
  obtain ⟨rs, h, -⟩ := applyCommands_change_only_mem (s := State.powerOn p) hreset fun hmem => absurd hmem hstep
  refine ⟨_, rs, h, rfl, rfl, rfl, rfl, rfl, rfl, rfl, rfl, rfl, fun a => ?_⟩
  rw [read_memAfter]
  cases lastLoad ks with
  | none => exact Memory.read_ofImage p.memory a
  | some img => rfl

/-- Settles O9: RESET and LOAD commute, and after them the first STEP fetches at PC = 0, where memory holds image byte 0. -/
theorem bootFetchesTheFirstImageByte : Obligations.BootFetchesTheFirstImageByte := by
  intro p img
  have hf : (applyLoad img (applyReset (State.powerOn p))).Fetches := ⟨rfl, rfl, by simp⟩
  obtain ⟨t, ht, hpc, hir, -⟩ := step_fetches_byteAtPc hf
  exact ⟨_, _, _, t, rfl, rfl, applyReset_registersReset (applyLoad img (State.powerOn p)), ht,
    hir.trans (Memory.byteAt_ofImage img 0 (by omega)), hpc⟩

end Sys2Proof.Machine


/-! PROOF. The canonical form of memory (spec/20_memory.md R23, R28): its cells are determined by the bytes they give. -/

namespace Sys2Proof.Machine

/-- At the address of its first cell a canonical memory does not read as the unlisted byte. -/
theorem Memory.byteAt_cons_ne_unlisted {lo k : Nat} {v : Byte} {m : Memory}
    (h : Memory.wfFrom lo ((k, v) :: m) = true) : Memory.byteAt ((k, v) :: m) k ≠ unlistedByte := by
  simp only [Memory.wfFrom, Bool.and_eq_true, decide_eq_true_eq] at h
  simpa only [Memory.byteAt, if_true] using h.1.2

/-- A canonical memory from lo on that starts with a cell is canonical from that cell's address on. -/
theorem Memory.wfFrom_first {lo k : Nat} {v : Byte} {m : Memory} (h : Memory.wfFrom lo ((k, v) :: m) = true) :
    k < 16 ∧ Memory.wfFrom k ((k, v) :: m) = true ∧ Memory.wfFrom (k + 1) m = true := by
  simp only [Memory.wfFrom, Bool.and_eq_true, decide_eq_true_eq] at h ⊢
  obtain ⟨⟨⟨-, hk⟩, hv⟩, hm⟩ := h
  exact ⟨hk, ⟨⟨⟨le_rfl, hk⟩, hv⟩, hm⟩, hm⟩

/-- The first cells of two canonical memories that read alike have one address: before the later one, its memory reads as
unlisted. -/
theorem Memory.first_address_le {lo lo' k k' : Nat} {v v' : Byte} {m m' : Memory}
    (h : Memory.wfFrom lo ((k, v) :: m) = true) (h' : Memory.wfFrom lo' ((k', v') :: m') = true)
    (heq : Memory.byteAt ((k, v) :: m) k = Memory.byteAt ((k', v') :: m') k) : k' ≤ k := by
  obtain ⟨-, hfirst, -⟩ := Memory.wfFrom_first h'
  by_contra hlt
  exact Memory.byteAt_cons_ne_unlisted h (heq.trans (Memory.byteAt_below hfirst (by omega)))

theorem Memory.wfFrom_ext {lo lo' : Nat} {m m' : Memory} (h : Memory.wfFrom lo m = true)
    (h' : Memory.wfFrom lo' m' = true) (heq : ∀ a, a < 16 → Memory.byteAt m a = Memory.byteAt m' a) : m = m' := by
  induction m generalizing lo lo' m' with
  | nil =>
    cases m' with
    | nil => rfl
    | cons cell' m' =>
      obtain ⟨hk, -, -⟩ := Memory.wfFrom_first h'
      exact absurd (heq _ hk).symm (Memory.byteAt_cons_ne_unlisted h')
  | cons cell m ih =>
    obtain ⟨k, v⟩ := cell
    obtain ⟨hk, -, hm⟩ := Memory.wfFrom_first h
    cases m' with
    | nil => exact absurd (heq k hk) (Memory.byteAt_cons_ne_unlisted h)
    | cons cell' m' =>
      obtain ⟨k', v'⟩ := cell'
      obtain ⟨hk', -, hm'⟩ := Memory.wfFrom_first h'
      have hle := Memory.first_address_le h' h (heq k' hk').symm
      have hge := Memory.first_address_le h h' (heq k hk)
      obtain rfl : k = k' := le_antisymm hle hge
      obtain rfl : v = v' := by simpa [Memory.byteAt] using heq k hk
      have htail : ∀ a, a < 16 → Memory.byteAt m a = Memory.byteAt m' a := by
        intro a ha
        by_cases hle : a ≤ k
        · rw [Memory.byteAt_below hm (by omega), Memory.byteAt_below hm' (by omega)]
        · simpa [Memory.byteAt, show k ≠ a by omega] using heq a ha
      rw [ih hm hm' htail]

/-- Settles O7: by induction on the lists, first cells that read alike are equal, and so the rests read alike too. -/
theorem canonicalMemoriesThatReadAlikeAreEqual : Obligations.CanonicalMemoriesThatReadAlikeAreEqual := by
  intro m m' h h' heq
  refine Memory.wfFrom_ext h h' fun a ha => ?_
  simpa [Memory.read, Nat.mod_eq_of_lt ha] using heq (BitVec.ofNat 4 a)

end Sys2Proof.Machine


/-! PROOF. The decoder backwards (spec/30_encoding.md R45, R47) and the ALU by cases (spec/41_memory_alu.md R78). -/

namespace Sys2Proof

theorem joinNibbles_opcodeOf_operandOf (b : Byte) : joinNibbles (opcodeOf b) (operandOf b) = b := by
  apply BitVec.eq_of_toNat_eq
  rw [joinNibbles_toNat, opcodeOf_toNat, operandOf_toNat]
  omega

/-- A decoded instruction has the byte's opcode, and its operand unless the instruction ignores it. -/
theorem fields_of_decode_instr {b : Byte} {i : Instr} (h : decode b = .instr i) :
    opcodeFor i = opcodeOf b ∧ (operandFor i = operandOf b ∨ ((i = .sai ∨ i = .par) ∧ operandFor i = 0x0#4)) := by
  obtain ⟨hop, hd⟩ | ⟨hop, hd⟩ | ⟨hop, hd⟩ | ⟨hop, hd⟩ | ⟨hop, hd⟩ | ⟨-, hd⟩ := decode_cases b <;>
    rw [hd] at h <;> cases h <;> rw [hop]
  · exact ⟨rfl, .inl rfl⟩
  · exact ⟨rfl, .inl rfl⟩
  · exact ⟨rfl, .inl rfl⟩
  · exact ⟨rfl, .inr ⟨.inl rfl, rfl⟩⟩
  · exact ⟨rfl, .inr ⟨.inr rfl, rfl⟩⟩

/-- Settles O11: the encoder joins the opcode the byte has with its operand, or with 0 where the operand is ignored. -/
theorem decodedBytesEncodeBack : Obligations.DecodedBytesEncodeBack := by
  intro b i h
  obtain ⟨hop, hoperand⟩ := fields_of_decode_instr h
  refine ⟨by cases i <;> rfl, ?_, ?_⟩
  · rw [← opcodeOf_toNat, opcodeOf_encode, hop, opcodeOf_toNat]
  · obtain hoperand | ⟨hignored, hoperand⟩ := hoperand
    · exact .inl (by rw [encode, hop, hoperand, joinNibbles_opcodeOf_operandOf])
    · exact .inr ⟨hignored, by rw [← operandOf_toNat, operandOf_encode, hoperand]; rfl⟩

end Sys2Proof

namespace Sys2Proof.Machine

/-- Computing exactly and then narrowing is the machine word's own sum. -/
theorem aluAdd_eq_add (x y : Byte) : aluAdd x y = x + y := by
  apply BitVec.eq_of_toNat_eq
  rw [aluAdd_toNat, BitVec.toNat_add]

/-- The same for the difference. -/
theorem aluSub_eq_sub (x y : Byte) : aluSub x y = x - y := by
  apply BitVec.eq_of_toNat_eq
  have hexact := aluSub_toNat x y
  rw [BitVec.toNat_sub]
  omega

/-- Settles O14: the exact result is narrowed modulo 256 once at most, and the words' own sum and difference wrap the signed
reading the same way. -/
theorem aluResultsByCase : Obligations.AluResultsByCase := by
  intro x y
  have hx := x.isLt
  have hy := y.isLt
  have hadd := aluAdd_toNat x y
  have hsub := aluSub_toNat x y
  refine ⟨by omega, by omega, by omega, by omega, ?_, ?_⟩
  · rw [aluAdd_eq_add, BitVec.toInt_add]
  · rw [aluSub_eq_sub, BitVec.toInt_sub]

end Sys2Proof.Machine


/-! PROOF. Runs: from RESET to the first ending byte (spec/40_instruction_cycle.md R77) and RUN from any state
(spec/70_reset_and_hazards.md R105, R106). -/

namespace Sys2Proof.Machine

/-! ### From RESET to the first ending byte -/

/-- The ending bytes by the number of their opcode. -/
theorem endsRun_iff (b : Byte) : endsRun b = true ↔ (3 ≤ b.toNat / 16 ∧ b.toNat / 16 ≤ 13) ∨ b.toNat / 16 = 15 := by
  simp [endsRun, opcodeOf_toNat]

/-- A STEP that fetches a byte that ends no run leaves STATUS READY. -/
theorem step_ready_of_endsRun_false {s t : State} (hf : s.Fetches) (h : step s = .next t)
    (hbyte : endsRun s.byteAtPc = false) : t.status = .ready := by
  rw [Bool.eq_false_iff, Ne, endsRun_iff, not_or] at hbyte
  obtain ⟨hinvalid, hpar⟩ := hbyte
  obtain ⟨-, hstatus⟩ | ⟨hop, -⟩ | ⟨hlo, hhi, -⟩ := step_fetches_status hf h
  · exact hstatus
  · exact absurd hop hpar
  · exact absurd ⟨hlo, hhi⟩ hinvalid

/-- A STEP that fetches an ending byte returns HALTED for a PAR and otherwise the invalid opcode. -/
theorem stepOutcome_of_endsRun {s t : State} (hf : s.Fetches) (h : step s = .next t) (hbyte : endsRun s.byteAtPc = true) :
    t.stepOutcome = if opcodeOf s.byteAtPc = 0xF#4 then .halted else .errInvalidOpcode (opcodeOf s.byteAtPc) := by
  obtain ⟨-, hir, -⟩ := step_fetches_frame hf h
  rw [endsRun_iff] at hbyte
  obtain ⟨hop, -⟩ | ⟨hop, hstatus, -⟩ | ⟨hlo, hhi, hstatus, -⟩ := step_fetches_status hf h
  · simp only [List.mem_cons, List.not_mem_nil, or_false] at hop
    omega
  · rw [if_pos (opcodeOf_eq_of_div hop)]
    simp only [State.stepOutcome, hstatus]
  · have hne : opcodeOf s.byteAtPc ≠ 0xF#4 := fun heq => by
      rw [← opcodeOf_toNat, heq] at hhi
      simp at hhi
    rw [if_neg hne]
    simp only [State.stepOutcome, hstatus, hir]

/-- In a run from RESET that is still READY after k STEPs, the next one fetches the byte at address k. -/
theorem byteAtPc_of_stepTimes_applyReset {k : Nat} {s t : State} (h : stepTimes k (applyReset s) = .next t)
    (hready : t.status = .ready) : t.byteAtPc = s.mem.byteAt k := by
  obtain ⟨hpc, -⟩ := stepTimes_applyReset_ready h hready
  rw [State.byteAtPc, hpc, stepTimes_keeps_mem h, applyReset_mem]

/-- As long as no byte before address k ends the run, k STEPs from RESET leave STATUS READY. -/
theorem stepTimes_applyReset_of_endsRun_false {s : State} {k : Nat} (hk : k ≤ 16)
    (hbytes : ∀ j, j < k → endsRun (s.mem.byteAt j) = false) :
    ∃ t, stepTimes k (applyReset s) = .next t ∧ t.status = .ready := by
  induction k with
  | zero => exact ⟨applyReset s, rfl, rfl⟩
  | succ k ih =>
    obtain ⟨u, hrun, hready⟩ := ih (by omega) fun j hj => hbytes j (by omega)
    have hf := fetches_of_stepTimes_applyReset hrun hready (by omega)
    obtain ⟨t, ht, -⟩ := step_of_fetches hf
    have hbyte : endsRun u.byteAtPc = false := by
      rw [byteAtPc_of_stepTimes_applyReset hrun hready]
      exact hbytes k (by omega)
    exact ⟨t, (stepTimes_succ hrun).trans ht, step_ready_of_endsRun_false hf ht hbyte⟩

/-- Settles O38: the STEPs before the first ending byte leave READY, so the next one fetches it; without one the run comes to
PC = 16, where the overflow check fails. -/
theorem runFromResetEndsAtTheFirstEndingByte : Obligations.RunFromResetEndsAtTheFirstEndingByte := by
  refine fun s => ⟨fun k hk hend hbefore => ?_, fun hnone => ?_⟩
  · obtain ⟨t, hrun, hready⟩ := stepTimes_applyReset_of_endsRun_false hk.le hbefore
    have hbyte := byteAtPc_of_stepTimes_applyReset hrun hready
    obtain ⟨u, hu, hir, hpc⟩ := stepTimes_succ_applyReset hrun hready hk
    refine ⟨u, hu, hpc, hir, ?_⟩
    rw [← hbyte] at hend ⊢
    exact stepOutcome_of_endsRun (fetches_of_stepTimes_applyReset hrun hready hk) ((stepTimes_succ hrun).symm.trans hu) hend
  · obtain ⟨t, hrun, hready⟩ := stepTimes_applyReset_of_endsRun_false le_rfl hnone
    obtain ⟨hpc, hreset⟩ := stepTimes_applyReset_ready hrun hready
    exact ⟨t, hrun, hpc, hready, (stepTimes_succ hrun).trans (step_of_pcOverflow hreset hready hpc.ge)⟩

/-! ### RUN -/

/-- n STEPs lead from s to t, the last of them being the first that does not return CONTINUE. -/
inductive RunsTo : Nat → State → State → Prop where
  | last {s t : State} (h : step s = .next t) (hend : t.stepOutcome ≠ .continued) : RunsTo 1 s t
  | more {n : Nat} {s u t : State} (h : step s = .next u) (hgo : u.stepOutcome = .continued) (hrest : RunsTo n u t) :
      RunsTo (n + 1) s t

theorem RunsTo.pos {n : Nat} {s t : State} (h : RunsTo n s t) : 1 ≤ n := by
  cases h <;> omega

theorem RunsTo.ends {n : Nat} {s t : State} (h : RunsTo n s t) : t.stepOutcome ≠ .continued := by
  induction h with
  | last _ hend => exact hend
  | more _ _ _ ih => exact ih

theorem RunsTo.stepTimes_eq {n : Nat} {s t : State} (h : RunsTo n s t) : stepTimes n s = .next t := by
  induction h with
  | last h _ => simp only [stepTimes, h]
  | more h _ _ ih => simp only [stepTimes, h, ih]

theorem RunsTo.continued_before {n : Nat} {s t : State} (h : RunsTo n s t) {m : Nat} (hm : 1 ≤ m) (hlt : m < n) :
    ∃ u, stepTimes m s = .next u ∧ u.stepOutcome = .continued := by
  induction h generalizing m with
  | last => omega
  | @more n s u t h hgo _ ih =>
    obtain ⟨m, rfl⟩ : ∃ m', m = m' + 1 := ⟨m - 1, by omega⟩
    cases m with
    | zero => exact ⟨u, by simp only [stepTimes, h], hgo⟩
    | succ m =>
      obtain ⟨v, hv, hvgo⟩ := ih (m := m + 1) (by omega) (by omega)
      exact ⟨v, by rw [stepTimes]; simpa only [h] using hv, hvgo⟩

/-- RUN's loop follows such a run and returns its last outcome's result, if it is allowed that many STEPs. -/
theorem RunsTo.runLoop_eq {n : Nat} {s t : State} (h : RunsTo n s t) {r : RunResult}
    (hr : runResultOf t.stepOutcome = some r) {bound : Nat} (hbound : n ≤ bound) (done : Nat) :
    runLoop bound done s = .returned r t (done + n) := by
  induction h generalizing bound done with
  | last h hend =>
    obtain ⟨b, rfl⟩ : ∃ b, bound = b + 1 := ⟨bound - 1, by omega⟩
    simp only [runLoop, h, hr]
  | more h hgo _ ih =>
    obtain ⟨b, rfl⟩ : ∃ b, bound = b + 1 := ⟨bound - 1, by omega⟩
    simp only [runLoop, h, hgo, runResultOf, ih hr (by omega : _ ≤ b)]
    congr 1
    omega

/-- Every outcome but CONTINUE is a result of RUN (R105). -/
theorem runResultOf_of_not_continued {o : StepOutcome} (h : o ≠ .continued) : ∃ r, runResultOf o = some r ∧
    ((o = .halted ∧ r = .ok .explicitHalt) ∨ (o = .errPcOverflow ∧ r = .ok .programCounterOverflow) ∨
     ∃ v, o = .errInvalidOpcode v ∧ r = .err (.invalidOpcode v)) := by
  cases o with
  | continued => exact absurd rfl h
  | halted => exact ⟨_, rfl, .inl ⟨rfl, rfl⟩⟩
  | errInvalidOpcode v => exact ⟨_, rfl, .inr (.inr ⟨v, rfl, rfl⟩)⟩
  | errPcOverflow => exact ⟨_, rfl, .inr (.inl ⟨rfl, rfl⟩)⟩

theorem stepOutcome_eq_continued_iff (s : State) : s.stepOutcome = .continued ↔ s.status = .ready := by
  cases h : s.status <;> simp [State.stepOutcome, h]

/-- Each STEP that continues fetched, so it raised PC: from PC on at most 17 - PC STEPs remain until the overflow (R106). -/
theorem exists_runsTo {s : State} (hreset : s.resetSeen = true) {n : Nat} (hn : 16 ≤ s.pc.toNat + n) :
    ∃ m t, m ≤ n + 1 ∧ RunsTo m s t := by
  obtain ⟨t, ht, htreset⟩ := step_answers hreset
  by_cases hgo : t.stepOutcome = .continued
  · have hf := fetches_of_step_ready ht ((stepOutcome_eq_continued_iff t).1 hgo)
    obtain ⟨hpc, -⟩ := step_fetches_frame hf ht
    cases n with
    | zero => exact absurd hf.inMemory (by omega)
    | succ n =>
      obtain ⟨m, u, hm, hrest⟩ := exists_runsTo htreset (n := n) (by omega)
      exact ⟨m + 1, u, by omega, .more ht hgo hrest⟩
  · exact ⟨1, t, by omega, .last ht hgo⟩

/-- A run from a latched state is the one STEP that is ignored. -/
theorem RunsTo.of_latched {n : Nat} {s t : State} (h : RunsTo n s t) (hs : s.Latched) : n = 1 ∧ t = s := by
  cases h with
  | last h _ => exact ⟨rfl, Host.Outcome.next.inj (h.symm.trans (step_of_latched hs))⟩
  | more h hgo _ =>
    obtain rfl := Host.Outcome.next.inj (h.symm.trans (step_of_latched hs))
    exact absurd ((stepOutcome_eq_continued_iff _).1 hgo) hs.terminal

/-- Settles O39: PC bounds the STEPs until the first that does not continue, and RUN's loop returns that one's result. -/
theorem runReturnsWithinSeventeenSteps : Obligations.RunReturnsWithinSeventeenSteps := by
  intro s hreset
  obtain ⟨n, t, hn, hrun⟩ := exists_runsTo hreset (n := 16) (by omega)
  obtain ⟨r, hr, hresult⟩ := runResultOf_of_not_continued hrun.ends
  exact ⟨r, t, n, by simpa [run] using hrun.runLoop_eq hr hn 0, hrun.pos, hn, hrun.stepTimes_eq,
    fun m hm hlt => hrun.continued_before hm hlt, hresult, fun hstatus => hrun.of_latched ⟨hreset, hstatus⟩⟩

end Sys2Proof.Machine


/-! PROOF. The control unit's phases give the STEP (spec/40_instruction_cycle.md R67, R69): started, CHECK to EXECUTE reach
IDLE with the state that the STEP answers. -/

namespace Sys2Proof.Machine

theorem Control.ticks_of_next {n : Nat} {k k' : Control} (h : k.tick = .next k') :
    Control.ticks (n + 1) k = Control.ticks n k' := by
  simp only [Control.ticks, h]

/-- In IDLE nothing happens until the next STEP command. -/
theorem Control.ticks_idle (n : Nat) (s : State) : Control.ticks n ⟨.idle, s⟩ = .next ⟨.idle, s⟩ := by
  induction n with
  | zero => rfl
  | succ n ih => exact (Control.ticks_of_next rfl).trans ih

/-- From CHECK, four ticks of a STEP that fetches bring the state after the fetch to EXECUTE. -/
theorem Control.ticks_check_of_fetches {s : State} (hf : s.Fetches) :
    Control.ticks 6 ⟨.check, s⟩ = Control.ticks 1 ⟨.execute, fetch s⟩ := by
  have hcheck : Control.tick ⟨.check, s⟩ = .next ⟨.f1, s⟩ := by
    simp only [Control.tick, if_neg (show ¬ 16 ≤ s.pc.toNat from not_le.2 hf.inMemory)]
  exact Control.ticks_of_next hcheck

/-- EXECUTE dispatches the byte in IR as the STEP does, and goes to IDLE with the STEP's answer. -/
theorem Control.ticks_execute_of_fetches {s : State} (hf : s.Fetches) :
    Control.ticks 1 ⟨.execute, fetch s⟩ = mapNext (Control.mk .idle) (step s) := by
  simp only [step, issue_fetches hf, issueFetched, Control.ticks, Control.tick]
  cases decode (fetch s).ir with
  | invalid op => rfl
  | instr i =>
    dsimp only
    cases exec i (fetch s) <;> rfl

theorem stepByPhases_eq_step (s : State) : stepByPhases s = mapNext (Control.mk .idle) (step s) := by
  obtain ⟨hnot, hi⟩ | ⟨hreset, hstatus, hi⟩ | ⟨hreset, hready, hpc, hi⟩ | ⟨hf, hi⟩ := issue_cases s
  · simp [stepByPhases, Control.start, hnot, step, hi, mapNext]
  · simp [stepByPhases, Control.start, readyForStep, hreset, hstatus, Control.ticks_idle, step, hi, mapNext]
  · have hcheck : Control.tick ⟨.check, s⟩ = .next ⟨.idle, raisePcOverflow s⟩ := by
      simp only [Control.tick, if_pos hpc]
    simp [stepByPhases, Control.start, readyForStep, hreset, hready, Control.ticks_of_next hcheck, Control.ticks_idle, step,
      hi, mapNext]
  · simp [stepByPhases, Control.start, readyForStep, hf.afterReset, hf.ready, Control.ticks_check_of_fetches hf,
      Control.ticks_execute_of_fetches hf]

/-- Settles O40: the phases answer the STEP's own answer, with the control unit in IDLE. -/
theorem phasesRefineTheStep : Obligations.PhasesRefineTheStep := by
  intro s
  rw [stepByPhases_eq_step]
  cases step s <;> simp [mapNext]

end Sys2Proof.Machine


/-! PROOF. The text of the assembler (spec/30_encoding.md R49, R55, R56): lines, comments and letter case. -/

namespace Sys2Proof.Machine

/-! ### Splitting a text -/

/-- At a separator a new piece begins. -/
theorem splitWhere_cons_sep {p : Char → Bool} {ch : Char} (h : p ch = true) (rest : List Char) :
    splitWhere p (ch :: rest) = [] :: splitWhere p rest := by
  simp only [splitWhere, h, if_true]

/-- Any other character stands at the head of the first piece. -/
theorem splitWhere_cons_other {p : Char → Bool} {ch : Char} (h : p ch = false) {rest piece : List Char}
    {pieces : List (List Char)} (hrest : splitWhere p rest = piece :: pieces) :
    splitWhere p (ch :: rest) = (ch :: piece) :: pieces := by
  simp [splitWhere, h, hrest]

/-- No piece holds a separator. -/
theorem not_sep_of_mem_splitWhere {p : Char → Bool} {text piece : List Char} (h : piece ∈ splitWhere p text) :
    ∀ ch ∈ piece, p ch = false := by
  induction text generalizing piece with
  | nil => simp_all [splitWhere]
  | cons ch rest ih =>
    obtain ⟨first, others, hrest⟩ := List.exists_cons_of_ne_nil (splitWhere_ne_nil p rest)
    rw [hrest] at ih
    cases hp : p ch with
    | true =>
      rw [splitWhere_cons_sep hp, hrest, List.mem_cons] at h
      obtain rfl | h := h
      · simp
      · exact ih h
    | false =>
      rw [splitWhere_cons_other hp hrest, List.mem_cons] at h
      obtain rfl | h := h
      · simpa [hp] using ih List.mem_cons_self
      · exact ih (List.mem_cons_of_mem _ h)

/-- The pieces, joined with the separator, are the text. -/
theorem flatten_intersperse_splitWhere (sep : Char) (text : List Char) :
    ((splitWhere (· == sep) text).intersperse [sep]).flatten = text := by
  induction text with
  | nil => rfl
  | cons ch rest ih =>
    obtain ⟨first, others, hrest⟩ := List.exists_cons_of_ne_nil (splitWhere_ne_nil (· == sep) rest)
    rw [hrest] at ih
    by_cases hch : ch = sep
    · rw [splitWhere_cons_sep (by simpa using hch), hrest]
      simpa [hch] using ih
    · rw [splitWhere_cons_other (by simpa using hch) hrest]
      cases others with
      | nil => simpa using ih
      | cons second others => simpa using ih

/-- Settles O56: the lines are the pieces between line feeds. -/
theorem linesAreTheTextBetweenLineFeeds : Obligations.LinesAreTheTextBetweenLineFeeds :=
  fun src => ⟨flatten_intersperse_splitWhere '\n' src,
    fun _ hline hfeed => by simpa using not_sep_of_mem_splitWhere hline '\n' hfeed⟩

/-! ### Comments -/

/-- The first semicolon of the longer text is the line's own or the added one: either way the same text is before it. -/
theorem stripComment_append_comment (line comment : List Char) :
    stripComment (line ++ ';' :: comment) = stripComment line := by
  induction line with
  | nil => rfl
  | cons ch rest ih =>
    simp only [stripComment, List.cons_append, List.takeWhile_cons] at ih ⊢
    rw [ih]

/-- Settles O46: a line is read only after its comment is stripped. -/
theorem commentsHaveNoEffect : Obligations.CommentsHaveNoEffect := by
  intro line comment st
  simp only [asmLine, lineTokens, stripComment_append_comment]

/-! ### Letter case: characters -/

/-- A fact about each character of a list, by evaluating it there. (The quantifier itself would be decided over all
characters.) -/
theorem forall_mem_of_all {P : Char → Prop} [DecidablePred P] {l : List Char} (h : l.all (fun ch => decide (P ch)) = true) :
    ∀ ch ∈ l, P ch := by
  simpa using h

/-- A function that takes each small ASCII letter and its capital alike does not see upperAscii. -/
theorem upperAscii_invariant {α : Type} (f : Char → α)
    (h : ∀ i : Fin 26, f (Char.ofNat (65 + i)) = f (Char.ofNat (97 + i))) (ch : Char) : f (upperAscii ch) = f ch := by
  unfold upperAscii
  split_ifs with hsmall
  · have hi := h ⟨ch.toNat - 97, by omega⟩
    simp only at hi
    rwa [show 65 + (ch.toNat - 97) = ch.toNat - 32 by omega, show 97 + (ch.toNat - 97) = ch.toNat by omega,
      Char.ofNat_toNat] at hi
  · rfl

@[simp] theorem upperAscii_upperAscii (ch : Char) : upperAscii (upperAscii ch) = upperAscii ch :=
  upperAscii_invariant upperAscii (by decide) ch

@[simp] theorem isWhitespace_upperAscii (ch : Char) : isWhitespace (upperAscii ch) = isWhitespace ch :=
  upperAscii_invariant isWhitespace (by decide) ch

@[simp] theorem digitValue_upperAscii (ch : Char) : digitValue (upperAscii ch) = digitValue ch :=
  upperAscii_invariant digitValue (by decide) ch

/-- The characters that the assembler names and that are no letter are met by themselves alone. -/
theorem upperAscii_eq_iff {c : Char} (h : c ∈ ['\n', ';', '+', '-', '0']) (ch : Char) : upperAscii ch = c ↔ ch = c := by
  have hc : ∀ c ∈ ['\n', ';', '+', '-', '0'], ∀ i : Fin 26, (Char.ofNat (65 + i) == c) = (Char.ofNat (97 + i) == c) :=
    forall_mem_of_all (by decide)
  simpa using congrArg (· = true) (upperAscii_invariant (· == c) (hc c h) ch)

/-- The x of a leading 0x is met by either case of it. -/
theorem upperAscii_eq_x_or_X_iff (ch : Char) : (upperAscii ch = 'x' ∨ upperAscii ch = 'X') ↔ (ch = 'x' ∨ ch = 'X') := by
  simpa using congrArg (· = true) (upperAscii_invariant (fun ch => ch == 'x' || ch == 'X') (by decide) ch)

/-! ### Letter case: tokens and lines -/

theorem splitWhere_map {p : Char → Bool} {f : Char → Char} (h : ∀ ch, p (f ch) = p ch) (text : List Char) :
    splitWhere p (text.map f) = (splitWhere p text).map (List.map f) := by
  induction text with
  | nil => rfl
  | cons ch rest ih =>
    obtain ⟨first, others, hrest⟩ := List.exists_cons_of_ne_nil (splitWhere_ne_nil p rest)
    rw [hrest, List.map_cons] at ih
    rw [List.map_cons]
    cases hp : p ch with
    | true => rw [splitWhere_cons_sep hp, splitWhere_cons_sep ((h ch).trans hp), ih, hrest]; rfl
    | false => rw [splitWhere_cons_other hp hrest, splitWhere_cons_other ((h ch).trans hp) ih]; rfl

theorem sourceLines_map_upperAscii (src : List Char) :
    sourceLines (src.map upperAscii) = (sourceLines src).map (List.map upperAscii) := by
  refine splitWhere_map (fun ch => ?_) src
  rw [Bool.eq_iff_iff, beq_iff_eq, beq_iff_eq, upperAscii_eq_iff (by simp)]

theorem stripComment_map_upperAscii (line : List Char) :
    stripComment (line.map upperAscii) = (stripComment line).map upperAscii := by
  have hsemi : ∀ ch, (upperAscii ch != ';') = (ch != ';') := fun ch => by
    rw [Bool.eq_iff_iff, bne_iff_ne, bne_iff_ne, Ne, upperAscii_eq_iff (by simp)]
  simp only [stripComment, List.takeWhile_map, Function.comp_def, hsemi]

theorem lineTokens_map_upperAscii (line : List Char) :
    lineTokens (line.map upperAscii) = (lineTokens line).map (List.map upperAscii) := by
  simp only [lineTokens, stripComment_map_upperAscii, splitWhere_map isWhitespace_upperAscii, List.filter_map,
    Function.comp_def, List.isEmpty_map]

theorem keywordOf_map_upperAscii (token : List Char) : keywordOf (token.map upperAscii) = keywordOf token := by
  simp only [keywordOf, List.map_map, Function.comp_def, upperAscii_upperAscii]

/-! ### Numbers: the leading 0x and the sign by their characters -/

theorem dropHexPrefix_cons_cons (a b : Char) (rest : List Char) :
    dropHexPrefix (a :: b :: rest) = if a = '0' ∧ (b = 'x' ∨ b = 'X') then rest else a :: b :: rest := by
  unfold dropHexPrefix
  split <;> simp_all

theorem signedNumber_cons (unsigned : List Char → Option Nat) (ch : Char) (rest : List Char) :
    signedNumber unsigned (ch :: rest) =
      if ch = '+' then (unsigned rest).map fun (n : Nat) => (n : Int)
      else if ch = '-' then (unsigned rest).map fun (n : Nat) => -(n : Int)
      else (unsigned (ch :: rest)).map fun (n : Nat) => (n : Int) := by
  unfold signedNumber
  split <;> simp_all

/-! ### Letter case: numbers and statements -/

theorem digitsValue_map_upperAscii (base v : Nat) (digits : List Char) :
    digitsValue base v (digits.map upperAscii) = digitsValue base v digits := by
  induction digits generalizing v with
  | nil => rfl
  | cons ch rest ih =>
    simp only [List.map_cons, digitsValue, digitValue_upperAscii, ih]

theorem unsignedNumber_map_upperAscii (base : Nat) (digits : List Char) :
    unsignedNumber base (digits.map upperAscii) = unsignedNumber base digits := by
  simp only [unsignedNumber, List.isEmpty_map, digitsValue_map_upperAscii]

theorem dropHexPrefix_map_upperAscii (text : List Char) :
    dropHexPrefix (text.map upperAscii) = (dropHexPrefix text).map upperAscii := by
  match text with
  | [] => rfl
  | [a] => simp [dropHexPrefix]
  | a :: b :: rest =>
    simp only [List.map_cons, dropHexPrefix_cons_cons, upperAscii_eq_iff (c := '0') (by simp), upperAscii_eq_x_or_X_iff]
    split_ifs <;> rfl

theorem signedNumber_map_upperAscii {unsigned : List Char → Option Nat}
    (h : ∀ text, unsigned (text.map upperAscii) = unsigned text) (token : List Char) :
    signedNumber unsigned (token.map upperAscii) = signedNumber unsigned token := by
  cases token with
  | nil => rfl
  | cons ch rest =>
    have hwhole := h (ch :: rest)
    rw [List.map_cons] at hwhole ⊢
    simp only [signedNumber_cons, upperAscii_eq_iff (c := '+') (by simp), upperAscii_eq_iff (c := '-') (by simp), h, hwhole]

theorem hexNumber_map_upperAscii (token : List Char) : hexNumber (token.map upperAscii) = hexNumber token :=
  signedNumber_map_upperAscii
    (fun text => by rw [dropHexPrefix_map_upperAscii, unsignedNumber_map_upperAscii]) token

theorem decNumber_map_upperAscii (token : List Char) : decNumber (token.map upperAscii) = decNumber token :=
  signedNumber_map_upperAscii (unsignedNumber_map_upperAscii 10) token

theorem addressOperand_map_upperAscii (operands : List (List Char)) :
    addressOperand (operands.map (List.map upperAscii)) = addressOperand operands := by
  match operands with
  | [] => rfl
  | [t] => simp only [List.map_cons, List.map_nil, addressOperand, oneOperand, hexNumber_map_upperAscii]
  | _ :: _ :: _ => rfl

theorem dbOperand_map_upperAscii (operands : List (List Char)) :
    dbOperand (operands.map (List.map upperAscii)) = dbOperand operands := by
  match operands with
  | [] => rfl
  | [t] => simp only [List.map_cons, List.map_nil, dbOperand, oneOperand, decNumber_map_upperAscii]
  | _ :: _ :: _ => rfl

theorem asmTokens_map_upperAscii (tokens : List (List Char)) (st : AsmState) :
    asmTokens (tokens.map (List.map upperAscii)) st = asmTokens tokens st := by
  cases tokens with
  | nil => rfl
  | cons first operands =>
    simp only [List.map_cons, asmTokens, keywordOf_map_upperAscii, asmOrg, asmDb, asmAddressed, asmPlain,
      addressOperand_map_upperAscii, dbOperand_map_upperAscii, List.isEmpty_map]

theorem asmLines_map_upperAscii (n : Nat) (lines : List (List Char)) (st : AsmState) :
    asmLines n (lines.map (List.map upperAscii)) st = asmLines n lines st := by
  induction lines generalizing n st with
  | nil => rfl
  | cons line rest ih =>
    simp only [List.map_cons, asmLines, asmLine, lineTokens_map_upperAscii, asmTokens_map_upperAscii, ih]

/-- Settles O47: lines, tokens and comments are cut alike, and keywords and numbers are read alike in either case. -/
theorem letterCaseHasNoEffect : Obligations.LetterCaseHasNoEffect := by
  intro src
  simp only [assemble, assembleState, sourceLines_map_upperAscii, asmLines_map_upperAscii]

/-! ### Numbers: digits (R51, R52, D9) -/

/-- A hex digit counts what its place says. -/
theorem digitValue_of_mem_hexDigits : ∀ ch ∈ hexDigits, digitValue ch = some (digitWeight ch) ∧ digitWeight ch < 16 :=
  forall_mem_of_all (by decide)

theorem digitValue_of_mem_decDigits : ∀ ch ∈ decDigits, digitValue ch = some (digitWeight ch) ∧ digitWeight ch < 10 :=
  forall_mem_of_all (by decide)

/-- Only the hex digits have a value: the characters with one stand in ASCII up to f. -/
theorem mem_hexDigits_of_digitValue {ch : Char} (h : (digitValue ch).isSome = true) : ch ∈ hexDigits := by
  have hascii : ch.toNat < 103 := by
    by_contra hge
    rw [digitValue, if_neg (by omega), if_neg (by omega), if_neg (by omega)] at h
    cases h
  have htable : ∀ n : Fin 103, (digitValue (Char.ofNat n)).isSome = true → Char.ofNat n ∈ hexDigits := by decide
  have hch := htable ⟨ch.toNat, hascii⟩
  simp only [Char.ofNat_toNat] at hch
  exact hch h

theorem mem_decDigits_of_digitWeight : ∀ ch ∈ hexDigits, digitWeight ch < 10 → ch ∈ decDigits :=
  forall_mem_of_all (by decide)

/-- Digits of the base give the number they spell, on top of the value so far. -/
theorem digitsValue_of_digits {base : Nat} {digits : List Char}
    (h : ∀ ch ∈ digits, digitValue ch = some (digitWeight ch) ∧ digitWeight ch < base) (v : Nat) :
    digitsValue base v digits = some (digits.foldl (fun v ch => v * base + digitWeight ch) v) := by
  induction digits generalizing v with
  | nil => rfl
  | cons ch rest ih =>
    obtain ⟨⟨hvalue, hlt⟩, hrest⟩ := List.forall_mem_cons.1 h
    simp only [digitsValue, hvalue, hlt, if_true, List.foldl_cons, ih hrest]

/-- Only digits of the base give a number. -/
theorem digits_of_digitsValue {base v : Nat} {digits : List Char} (h : (digitsValue base v digits).isSome = true) :
    ∀ ch ∈ digits, ch ∈ hexDigits ∧ digitWeight ch < base := by
  induction digits generalizing v with
  | nil => simp
  | cons ch rest ih =>
    rw [digitsValue] at h
    cases hvalue : digitValue ch with
    | none => simp [hvalue] at h
    | some d =>
      simp only [hvalue] at h
      have hmem : ch ∈ hexDigits := mem_hexDigits_of_digitValue (by simp [hvalue])
      obtain rfl : d = digitWeight ch := Option.some.inj (hvalue.symm.trans (digitValue_of_mem_hexDigits ch hmem).1)
      split_ifs at h with hlt
      · exact List.forall_mem_cons.2 ⟨⟨hmem, hlt⟩, ih h⟩
      · cases h

theorem unsignedNumber_of_digits {base : Nat} {digits : List Char} (hne : digits ≠ [])
    (h : ∀ ch ∈ digits, digitValue ch = some (digitWeight ch) ∧ digitWeight ch < base) :
    unsignedNumber base digits = some (spelledValue base digits) := by
  rw [unsignedNumber, if_neg (by simpa using hne), digitsValue_of_digits h, spelledValue]

theorem digits_of_unsignedNumber {base : Nat} {digits : List Char} (h : (unsignedNumber base digits).isSome = true) :
    digits ≠ [] ∧ ∀ ch ∈ digits, ch ∈ hexDigits ∧ digitWeight ch < base := by
  rw [unsignedNumber] at h
  split_ifs at h with hempty
  · cases h
  · exact ⟨by simpa using hempty, digits_of_digitsValue h⟩

/-! ### Numbers: the grammar -/

/-- A sign before a text that does not start with one gives its unsigned number that sign. -/
theorem signedNumber_sign_append {unsigned : List Char → Option Nat} {sign : List Char} (hsign : sign ∈ [[], ['+'], ['-']])
    {ch : Char} {rest : List Char} (hplus : ch ≠ '+') (hminus : ch ≠ '-') :
    signedNumber unsigned (sign ++ ch :: rest) = (unsigned (ch :: rest)).map (signedValue sign) := by
  simp only [List.mem_cons, List.not_mem_nil, or_false] at hsign
  obtain rfl | rfl | rfl := hsign
  · rw [List.nil_append, signedNumber_cons, if_neg hplus, if_neg hminus]
    rfl
  · rw [List.singleton_append, signedNumber_cons, if_pos rfl]
    rfl
  · rw [List.singleton_append, signedNumber_cons, if_neg (by decide), if_pos rfl]
    rfl

theorem exists_sign_of_signedNumber {unsigned : List Char → Option Nat} {token : List Char}
    (h : (signedNumber unsigned token).isSome = true) :
    ∃ sign body, sign ∈ [[], ['+'], ['-']] ∧ token = sign ++ body ∧ (unsigned body).isSome = true := by
  cases token with
  | nil => exact ⟨[], [], by simp, rfl, by simpa [signedNumber] using h⟩
  | cons ch rest =>
    rw [signedNumber_cons] at h
    split_ifs at h with hplus hminus <;> rw [Option.isSome_map] at h
    · exact ⟨['+'], rest, by simp, by simp [hplus], h⟩
    · exact ⟨['-'], rest, by simp, by simp [hminus], h⟩
    · exact ⟨[], ch :: rest, by simp, rfl, h⟩

/-- A hex digit is no x, so the 0x that is dropped is the one before the digits. -/
theorem dropHexPrefix_append {pre digits : List Char} (hpre : pre ∈ [[], ['0', 'x'], ['0', 'X']])
    (hdigits : ∀ ch ∈ digits, ch ∈ hexDigits) : dropHexPrefix (pre ++ digits) = digits := by
  simp only [List.mem_cons, List.not_mem_nil, or_false] at hpre
  obtain rfl | rfl | rfl := hpre
  · match digits with
    | [] => rfl
    | [a] => simp [dropHexPrefix]
    | a :: b :: rest =>
      have hb : b ∈ hexDigits := hdigits b (by simp)
      have hx : ∀ ch ∈ hexDigits, ¬ (ch = 'x' ∨ ch = 'X') := forall_mem_of_all (by decide)
      simp [dropHexPrefix_cons_cons, hx b hb]
  · simp [dropHexPrefix_cons_cons]
  · simp [dropHexPrefix_cons_cons]

theorem exists_append_dropHexPrefix (text : List Char) :
    ∃ pre ∈ [[], ['0', 'x'], ['0', 'X']], text = pre ++ dropHexPrefix text := by
  match text with
  | [] => exact ⟨[], by simp, rfl⟩
  | [a] => exact ⟨[], by simp, by simp [dropHexPrefix]⟩
  | a :: b :: rest =>
    rw [dropHexPrefix_cons_cons]
    split_ifs with h
    · obtain ⟨rfl, rfl | rfl⟩ := h
      · exact ⟨['0', 'x'], by simp, rfl⟩
      · exact ⟨['0', 'X'], by simp, rfl⟩
    · exact ⟨[], by simp, rfl⟩

/-- With a leading 0x (its first character is the digit 0) or without it, the text starts with a hex digit. -/
theorem exists_hexDigit_first {pre digits : List Char} (hpre : pre ∈ [[], ['0', 'x'], ['0', 'X']])
    (hne : digits ≠ []) (hdigits : ∀ ch ∈ digits, ch ∈ hexDigits) :
    ∃ ch rest, pre ++ digits = ch :: rest ∧ ch ∈ hexDigits := by
  have hzero : '0' ∈ hexDigits := List.mem_cons_self
  simp only [List.mem_cons, List.not_mem_nil, or_false] at hpre
  obtain rfl | rfl | rfl := hpre
  · obtain ⟨ch, rest, rfl⟩ := List.exists_cons_of_ne_nil hne
    exact ⟨ch, rest, rfl, hdigits ch List.mem_cons_self⟩
  · exact ⟨'0', 'x' :: digits, rfl, hzero⟩
  · exact ⟨'0', 'X' :: digits, rfl, hzero⟩

/-- No hex digit is a sign. -/
theorem not_sign_of_mem_hexDigits : ∀ ch ∈ hexDigits, ch ≠ '+' ∧ ch ≠ '-' := forall_mem_of_all (by decide)

/-- Settles O45: a digit is no sign, so the sign is read as written; and only an optional sign before digits gives a value. -/
theorem decNumberTokensFollowTheGrammar : Obligations.DecNumberTokensFollowTheGrammar := by
  refine ⟨fun sign digits hsign hne hdigits => ?_, fun token h => ?_⟩
  · obtain ⟨ch, rest, rfl⟩ := List.exists_cons_of_ne_nil hne
    have hhex : ∀ ch ∈ decDigits, ch ∈ hexDigits := forall_mem_of_all (by decide)
    obtain ⟨hplus, hminus⟩ := not_sign_of_mem_hexDigits ch (hhex ch (hdigits ch List.mem_cons_self))
    rw [decNumber, signedNumber_sign_append hsign hplus hminus,
      unsignedNumber_of_digits hne fun ch hch => digitValue_of_mem_decDigits ch (hdigits ch hch), Option.map_some]
  · obtain ⟨sign, digits, hsign, htoken, hvalue⟩ := exists_sign_of_signedNumber h
    obtain ⟨hne, hdigits⟩ := digits_of_unsignedNumber hvalue
    have hdec : ∀ ch ∈ digits, ch ∈ decDigits := fun ch hch =>
      mem_decDigits_of_digitWeight ch (hdigits ch hch).1 (hdigits ch hch).2
    exact ⟨sign, digits, hsign, hne, hdec, htoken⟩

/-- Settles O44: the sign and the 0x are read as written, a digit being no sign and no x; and only such a token gives a
value. -/
theorem hexNumberTokensFollowTheGrammar : Obligations.HexNumberTokensFollowTheGrammar := by
  refine ⟨fun sign pre digits hsign hpre hne hdigits => ?_, fun token h => ?_⟩
  · obtain ⟨ch, rest, hbody, hch⟩ := exists_hexDigit_first hpre hne hdigits
    obtain ⟨hplus, hminus⟩ := not_sign_of_mem_hexDigits ch hch
    rw [List.append_assoc, hbody, hexNumber, signedNumber_sign_append hsign hplus hminus, ← hbody,
      dropHexPrefix_append hpre hdigits,
      unsignedNumber_of_digits hne fun ch hch => digitValue_of_mem_hexDigits ch (hdigits ch hch), Option.map_some]
  · obtain ⟨sign, body, hsign, htoken, hvalue⟩ := exists_sign_of_signedNumber h
    obtain ⟨hne, hdigits⟩ := digits_of_unsignedNumber hvalue
    obtain ⟨pre, hpre, hbody⟩ := exists_append_dropHexPrefix body
    exact ⟨sign, pre, dropHexPrefix body, hsign, hpre, hne, fun ch hch => (hdigits ch hch).1,
      by rw [htoken, List.append_assoc, ← hbody]⟩

end Sys2Proof.Machine


/-! PROOF. The statements of the assembler, line by line (spec/30_encoding.md R57 to R61): the operands, what each keyword's
line does, and when it fails. -/

namespace Sys2Proof.Machine

/-! ### Operands (R57, R58, R60, D10, D11) -/

theorem addressOperand_of_hexNumber {t : List Char} {a : Nat} (h : hexNumber t = some (a : Int)) (ha : a ≤ 15) :
    addressOperand [t] = .ok a := by
  have hrange : addressInRange (a : Int) = true := by simp [addressInRange]; omega
  simp [addressOperand, oneOperand, h, hrange]

theorem addressOperand_of_malformed {t : List Char} (h : hexNumber t = none) :
    addressOperand [t] = .error .malformedNumber := by
  simp [addressOperand, oneOperand, h]

theorem addressOperand_of_out_of_range {t : List Char} {v : Int} (h : hexNumber t = some v) (hv : v < 0 ∨ 15 < v) :
    addressOperand [t] = .error .operandOutOfRange := by
  have hrange : addressInRange v = false := by simp [addressInRange]; omega
  simp [addressOperand, oneOperand, h, hrange]

theorem dbOperand_of_decNumber {t : List Char} {v : Nat} (h : decNumber t = some (v : Int)) (hv : v ≤ 255) :
    dbOperand [t] = .ok (BitVec.ofNat 8 v) := by
  have hrange : dbValueInRange (v : Int) = true := by simp [dbValueInRange]; omega
  simp [dbOperand, oneOperand, h, hrange]

theorem dbOperand_of_malformed {t : List Char} (h : decNumber t = none) : dbOperand [t] = .error .malformedNumber := by
  simp [dbOperand, oneOperand, h]

theorem dbOperand_of_out_of_range {t : List Char} {v : Int} (h : decNumber t = some v) (hv : v < 0 ∨ 255 < v) :
    dbOperand [t] = .error .invalidDbValue := by
  have hrange : dbValueInRange v = false := by simp [dbValueInRange]; omega
  simp [dbOperand, oneOperand, h, hrange]

/-! ### Keywords -/

/-- The statement that a keyword's line is (R57, R58, R60, R61). -/
def asmKeyword (k : Keyword) (operands : List (List Char)) (st : AsmState) : Except AsmErrorKind AsmState :=
  match k with
  | .org => asmOrg operands st
  | .db => asmDb operands st
  | .car => asmAddressed .car operands st
  | .som => asmAddressed .som operands st
  | .sub => asmAddressed .sub operands st
  | .sai => asmPlain .sai operands st
  | .par => asmPlain .par operands st

theorem asmTokens_of_keyword {first : List Char} {k : Keyword} (h : keywordOf first = some k)
    (operands : List (List Char)) (st : AsmState) : asmTokens (first :: operands) st = asmKeyword k operands st := by
  cases k <;> simp only [asmTokens, h, asmKeyword]

theorem asmTokens_of_no_keyword {first : List Char} (h : keywordOf first = none) (operands : List (List Char))
    (st : AsmState) : asmTokens (first :: operands) st = .error .unknownMnemonic := by
  simp only [asmTokens, h]

/-- An operand error of a line with an address operand is the line's, whatever the assembler's state. -/
theorem asmKeyword_of_addressOperand_error {k : Keyword} (hdb : k ≠ .db) (hsai : k ≠ .sai) (hpar : k ≠ .par)
    {operands : List (List Char)} {e : AsmErrorKind} (h : addressOperand operands = .error e) (st : AsmState) :
    asmKeyword k operands st = .error e := by
  cases k with
  | org => simp only [asmKeyword, asmOrg, h]
  | db => exact absurd rfl hdb
  | car => simp only [asmKeyword, asmAddressed, h]
  | som => simp only [asmKeyword, asmAddressed, h]
  | sub => simp only [asmKeyword, asmAddressed, h]
  | sai => exact absurd rfl hsai
  | par => exact absurd rfl hpar

theorem asmDb_of_dbOperand_error {operands : List (List Char)} {e : AsmErrorKind} (h : dbOperand operands = .error e)
    (st : AsmState) : asmDb operands st = .error e := by
  simp only [asmDb, h]

/-- Settles O55: each operand error comes from reading the operands, before the assembler's state is looked at. -/
theorem operandErrorsComeFirst : Obligations.OperandErrorsComeFirst := by
  intro k first st hk hsai hpar
  simp only [asmTokens_of_keyword hk]
  by_cases hdb : k = .db
  · subst hdb
    exact ⟨rfl, fun _ _ _ => rfl, fun h => absurd rfl h, fun h => absurd rfl h,
      fun _ t ht => asmDb_of_dbOperand_error (dbOperand_of_malformed ht) st,
      fun _ t v ht hv => asmDb_of_dbOperand_error (dbOperand_of_out_of_range ht hv) st⟩
  · have herror {operands : List (List Char)} {e : AsmErrorKind} (h : addressOperand operands = .error e) :=
      asmKeyword_of_addressOperand_error hdb hsai hpar h st
    exact ⟨herror rfl, fun _ _ _ => herror rfl, fun _ t ht => herror (addressOperand_of_malformed ht),
      fun _ t v ht hv => herror (addressOperand_of_out_of_range ht hv), fun h => absurd h hdb, fun h => absurd h hdb⟩

/-! ### Unknown first tokens (R59) -/

theorem keywordOf_eq_none_iff (first : List Char) : keywordOf first = none ↔ first.map upperAscii ∉
    [['O', 'R', 'G'], ['D', 'B'], ['C', 'A', 'R'], ['S', 'O', 'M'], ['S', 'U', 'B'], ['S', 'A', 'I'], ['P', 'A', 'R']] := by
  simp only [keywordOf, List.mem_cons, List.not_mem_nil, or_false, not_or]
  split_ifs <;> simp_all

theorem addressOperand_ne_unknownMnemonic (operands : List (List Char)) :
    addressOperand operands ≠ .error .unknownMnemonic := by
  match operands with
  | [] => simp [addressOperand, oneOperand]
  | [t] =>
    simp only [addressOperand, oneOperand]
    cases hexNumber t with
    | none => simp
    | some v => dsimp only; split_ifs <;> simp
  | _ :: _ :: _ => simp [addressOperand, oneOperand]

theorem dbOperand_ne_unknownMnemonic (operands : List (List Char)) : dbOperand operands ≠ .error .unknownMnemonic := by
  match operands with
  | [] => simp [dbOperand, oneOperand]
  | [t] =>
    simp only [dbOperand, oneOperand]
    cases decNumber t with
    | none => simp
    | some v => dsimp only; split_ifs <;> simp
  | _ :: _ :: _ => simp [dbOperand, oneOperand]

theorem emitInstr_ne_unknownMnemonic (i : Instr) (st : AsmState) : emitInstr i st ≠ .error .unknownMnemonic := by
  obtain ⟨-, h⟩ | ⟨-, h⟩ := emitInstr_cases i st <;> simp [h]

theorem asmAddressed_ne_unknownMnemonic (mk : Addr → Instr) (operands : List (List Char)) (st : AsmState) :
    asmAddressed mk operands st ≠ .error .unknownMnemonic := by
  unfold asmAddressed
  cases h : addressOperand operands with
  | error e => exact fun he => addressOperand_ne_unknownMnemonic operands (h.trans (by simpa using he))
  | ok v => exact emitInstr_ne_unknownMnemonic _ st

theorem asmPlain_ne_unknownMnemonic (i : Instr) (operands : List (List Char)) (st : AsmState) :
    asmPlain i operands st ≠ .error .unknownMnemonic := by
  unfold asmPlain
  split_ifs
  · exact emitInstr_ne_unknownMnemonic i st
  · simp

theorem asmKeyword_ne_unknownMnemonic (k : Keyword) (operands : List (List Char)) (st : AsmState) :
    asmKeyword k operands st ≠ .error .unknownMnemonic := by
  cases k with
  | org =>
    simp only [asmKeyword, asmOrg]
    cases h : addressOperand operands with
    | error e => exact fun he => addressOperand_ne_unknownMnemonic operands (h.trans (by simpa using he))
    | ok v => simp
  | db =>
    simp only [asmKeyword, asmDb]
    cases h : dbOperand operands with
    | error e => exact fun he => dbOperand_ne_unknownMnemonic operands (h.trans (by simpa using he))
    | ok v => dsimp only; split_ifs <;> simp
  | car => exact asmAddressed_ne_unknownMnemonic _ operands st
  | som => exact asmAddressed_ne_unknownMnemonic _ operands st
  | sub => exact asmAddressed_ne_unknownMnemonic _ operands st
  | sai => exact asmPlain_ne_unknownMnemonic _ operands st
  | par => exact asmPlain_ne_unknownMnemonic _ operands st

/-- Settles O54: a first token that is no keyword fails so, and no keyword's statement does. -/
theorem onlyUnknownFirstTokensAreUnknownMnemonics : Obligations.OnlyUnknownFirstTokensAreUnknownMnemonics := by
  intro first operands st
  rw [← keywordOf_eq_none_iff]
  cases h : keywordOf first with
  | none => simp [asmTokens_of_no_keyword h]
  | some k => simp [asmTokens_of_keyword h, asmKeyword_ne_unknownMnemonic]

/-! ### Writing a byte of the image -/

theorem AsmState.put_image_getElem (st : AsmState) (position : Nat) (v : Byte) (w : Writer) {i : Nat} (h : i < 16) :
    (st.put position v w).image[i] = if position = i then v else st.image[i] :=
  Vector.getElem_setIfInBounds h

theorem AsmState.put_writers_getElem (st : AsmState) (position : Nat) (v : Byte) (w : Writer) {i : Nat} (h : i < 16) :
    (st.put position v w).writers[i] = if position = i then some w else st.writers[i] :=
  Vector.getElem_setIfInBounds h

/-- A byte put into the image stands at its position, and every other byte is as before. -/
theorem AsmState.put_image_frame (st : AsmState) (position : Nat) (v : Byte) (w : Writer) {n : Nat} (hv : v.toNat = n)
    (i : Nat) (h : i < 16) :
    (i = position → (st.put position v w).image[i].toNat = n) ∧
    (i ≠ position → (st.put position v w).image[i] = st.image[i]) := by
  rw [AsmState.put_image_getElem st position v w h]
  exact ⟨fun hi => by rw [if_pos hi.symm, hv], fun hi => if_neg (Ne.symm hi)⟩

/-! ### Instruction lines (R60, R61) -/

theorem emitInstr_of_full {i : Instr} {st : AsmState} (h : 16 ≤ st.ip) : emitInstr i st = .error .memoryOverflow := by
  rw [emitInstr, if_pos h]

theorem emitInstr_of_room {i : Instr} {st : AsmState} (h : st.ip < 16) :
    emitInstr i st = .ok { st.put st.ip (encode i) .instruction with ip := st.ip + 1 } := by
  rw [emitInstr, if_neg (by omega)]

/-- A CAR, SOM or SUB line with an address emits the instruction whose byte is (opcode << 4) | a. -/
theorem asmTokens_addressed {k : Keyword} {opcode a : Nat} {first token : List Char}
    (hk : (k, opcode) ∈ [(Keyword.car, 0x0), (Keyword.som, 0x1), (Keyword.sub, 0x2)]) (hfirst : keywordOf first = some k)
    (htoken : hexNumber token = some (a : Int)) (ha : a ≤ 15) (st : AsmState) :
    ∃ i, asmTokens [first, token] st = emitInstr i st ∧ (encode i).toNat = opcode * 16 + a := by
  have hoperand := addressOperand_of_hexNumber htoken ha
  have hbyte (mk : Addr → Instr) (h : operandFor (mk (BitVec.ofNat 4 a)) = BitVec.ofNat 4 a) :
      (encode (mk (BitVec.ofNat 4 a))).toNat = 16 * (opcodeFor (mk (BitVec.ofNat 4 a))).toNat + a := by
    rw [encode_toNat, h, BitVec.toNat_ofNat, Nat.mod_eq_of_lt (by omega)]
  simp only [List.mem_cons, Prod.mk.injEq, List.not_mem_nil, or_false] at hk
  obtain ⟨rfl, rfl⟩ | ⟨rfl, rfl⟩ | ⟨rfl, rfl⟩ := hk <;>
    simp only [asmTokens_of_keyword hfirst, asmKeyword, asmAddressed, hoperand]
  · exact ⟨_, rfl, hbyte .car rfl⟩
  · exact ⟨_, rfl, hbyte .som rfl⟩
  · exact ⟨_, rfl, hbyte .sub rfl⟩

/-- Settles O51: the line emits its instruction, at ip where there is room. -/
theorem addressedLinesWriteTheirByteAtIp : Obligations.AddressedLinesWriteTheirByteAtIp := by
  intro k opcode a first token st hk hfirst htoken ha
  obtain ⟨i, hline, hbyte⟩ := asmTokens_addressed hk hfirst htoken ha st
  rw [hline]
  exact ⟨fun hip => ⟨_, emitInstr_of_room hip, rfl, rfl, rfl, st.put_image_frame st.ip (encode i) .instruction hbyte⟩,
    emitInstr_of_full⟩

/-- A SAI or PAR line is its instruction's statement, whose byte is opcode << 4. -/
theorem asmTokens_plain {k : Keyword} {opcode : Nat} {first : List Char}
    (hk : (k, opcode) ∈ [(Keyword.sai, 0xE), (Keyword.par, 0xF)]) (hfirst : keywordOf first = some k) :
    ∃ i, (∀ operands st, asmTokens (first :: operands) st = asmPlain i operands st) ∧ (encode i).toNat = opcode * 16 := by
  simp only [List.mem_cons, Prod.mk.injEq, List.not_mem_nil, or_false] at hk
  obtain ⟨rfl, rfl⟩ | ⟨rfl, rfl⟩ := hk
  · exact ⟨.sai, asmTokens_of_keyword hfirst, by rw [encode_toNat]; rfl⟩
  · exact ⟨.par, asmTokens_of_keyword hfirst, by rw [encode_toNat]; rfl⟩

/-- Settles O52: without operands the line emits its instruction, and with one it fails before that. -/
theorem plainLinesWriteTheirByteAtIp : Obligations.PlainLinesWriteTheirByteAtIp := by
  intro k opcode first operands st hk hfirst
  obtain ⟨i, hline, hbyte⟩ := asmTokens_plain hk hfirst
  have hemit : asmPlain i [] st = emitInstr i st := rfl
  rw [hline, hline, hemit]
  refine ⟨fun hne => if_neg (by simpa using hne), fun _ => emitInstr_of_full, fun _ hip => ?_⟩
  exact ⟨_, emitInstr_of_room hip, rfl, rfl, st.put_image_frame st.ip (encode i) .instruction hbyte⟩

/-! ### Directive lines (R57, R58) -/

/-- Settles O53: the operand is accepted, so DB comes to its own two checks and then writes at dp, and ORG sets dp. -/
theorem directiveLinesUseTheDataPointer : Obligations.DirectiveLinesUseTheDataPointer := by
  refine ⟨fun first token v st hfirst htoken hv => ?_, fun first token a st hfirst htoken ha => ?_⟩
  · simp only [asmTokens_of_keyword hfirst, asmKeyword, asmDb, dbOperand_of_decNumber htoken hv]
    have hbyte : (BitVec.ofNat 8 v).toNat = v := by rw [BitVec.toNat_ofNat, Nat.mod_eq_of_lt (by omega)]
    refine ⟨fun horg => if_pos horg, fun horg hdp => ?_, fun horg hdp => ?_⟩
    · rw [if_neg (by simp [horg]), if_pos hdp]
    · rw [if_neg (by simp [horg]), if_neg (by omega)]
      exact ⟨_, rfl, rfl, rfl, st.put_image_frame st.dp _ .data hbyte⟩
  · simp only [asmTokens_of_keyword hfirst, asmKeyword, asmOrg, addressOperand_of_hexNumber htoken ha]
    exact ⟨_, rfl, rfl, rfl, rfl, rfl⟩

end Sys2Proof.Machine


/-! PROOF. The assembled image (spec/30_encoding.md R63, R66): an invariant of the assembler's state that every line keeps. -/

namespace Sys2Proof.Machine

/-! ### What a line that is valid can have done -/

/-- It holds no statement, or it is an ORG, or a DB that writes at dp, or an instruction that writes at ip. -/
inductive LineEffect (st : AsmState) : AsmState → Prop where
  | blank : LineEffect st st
  | org (v : Nat) (hv : v < 16) : LineEffect st { st with dp := v, orgSeen := true }
  | db (v : Byte) (hdp : st.dp < 16) : LineEffect st { st.put st.dp v .data with dp := st.dp + 1 }
  | instr (i : Instr) (hip : st.ip < 16) : LineEffect st { st.put st.ip (encode i) .instruction with ip := st.ip + 1 }

theorem lineEffect_of_emitInstr {i : Instr} {st st' : AsmState} (h : emitInstr i st = .ok st') : LineEffect st st' := by
  obtain ⟨-, he⟩ | ⟨hip, he⟩ := emitInstr_cases i st <;> rw [he] at h
  · cases h
  · obtain rfl := Except.ok.inj h
    exact .instr i hip

theorem lineEffect_of_asmAddressed {mk : Addr → Instr} {operands : List (List Char)} {st st' : AsmState}
    (h : asmAddressed mk operands st = .ok st') : LineEffect st st' := by
  unfold asmAddressed at h
  cases ho : addressOperand operands with
  | error e => simp [ho] at h
  | ok v => exact lineEffect_of_emitInstr (by simpa only [ho] using h)

theorem lineEffect_of_asmPlain {i : Instr} {operands : List (List Char)} {st st' : AsmState}
    (h : asmPlain i operands st = .ok st') : LineEffect st st' := by
  unfold asmPlain at h
  split_ifs at h
  exact lineEffect_of_emitInstr h

theorem lineEffect_of_asmOrg {operands : List (List Char)} {st st' : AsmState} (h : asmOrg operands st = .ok st') :
    LineEffect st st' := by
  unfold asmOrg at h
  cases ho : addressOperand operands with
  | error e => simp [ho] at h
  | ok v =>
    simp only [ho] at h
    obtain rfl := Except.ok.inj h
    exact .org v (addressOperand_ok ho).1

theorem lineEffect_of_asmDb {operands : List (List Char)} {st st' : AsmState} (h : asmDb operands st = .ok st') :
    LineEffect st st' := by
  unfold asmDb at h
  cases ho : dbOperand operands with
  | error e => simp [ho] at h
  | ok v =>
    simp only [ho] at h
    split_ifs at h with horg hdp
    obtain rfl := Except.ok.inj h
    exact .db v (by omega)

theorem lineEffect_of_asmLine {line : List Char} {st st' : AsmState} (h : asmLine line st = .ok st') :
    LineEffect st st' := by
  unfold asmLine at h
  cases ht : lineTokens line with
  | nil =>
    rw [ht, asmTokens] at h
    obtain rfl := Except.ok.inj h
    exact .blank
  | cons first operands =>
    rw [ht] at h
    cases hk : keywordOf first with
    | none => simp [asmTokens_of_no_keyword hk] at h
    | some k =>
      rw [asmTokens_of_keyword hk] at h
      cases k with
      | org => exact lineEffect_of_asmOrg h
      | db => exact lineEffect_of_asmDb h
      | car => exact lineEffect_of_asmAddressed h
      | som => exact lineEffect_of_asmAddressed h
      | sub => exact lineEffect_of_asmAddressed h
      | sai => exact lineEffect_of_asmPlain h
      | par => exact lineEffect_of_asmPlain h

/-! ### The invariant -/

/-- The pointers are at most 16, a byte last written by an instruction line is an encoding, and a byte that no line wrote is
0x00. -/
structure AsmState.Inv (st : AsmState) : Prop where
  ipRange : st.ip ≤ 16
  dpRange : st.dp ≤ 16
  encoded : ∀ (i : Nat) (h : i < 16), st.writers[i] = some .instruction → ∃ ins, st.image[i] = encode ins
  unwritten : ∀ (i : Nat) (h : i < 16), st.writers[i] = none → st.image[i] = 0x00#8

theorem AsmState.initial_inv : AsmState.initial.Inv where
  ipRange := Nat.zero_le 16
  dpRange := Nat.zero_le 16
  encoded i h hw := by simp [AsmState.initial] at hw
  unwritten i h _ := by simp [AsmState.initial]

/-- A written byte keeps the invariant if it is an encoding wherever the instruction pointer writes it. -/
theorem AsmState.Inv.put {st : AsmState} (hst : st.Inv) (position : Nat) {v : Byte} {w : Writer}
    (hv : w = .instruction → ∃ ins, v = encode ins) : (st.put position v w).Inv where
  ipRange := hst.ipRange
  dpRange := hst.dpRange
  encoded i h hw := by
    rw [AsmState.put_writers_getElem st position v w h] at hw
    rw [AsmState.put_image_getElem st position v w h]
    split_ifs at hw ⊢ with hi
    · exact hv (Option.some.inj hw)
    · exact hst.encoded i h hw
  unwritten i h hw := by
    rw [AsmState.put_writers_getElem st position v w h] at hw
    rw [AsmState.put_image_getElem st position v w h]
    split_ifs at hw ⊢ with hi
    exact hst.unwritten i h hw

theorem LineEffect.keeps_inv {st st' : AsmState} (h : LineEffect st st') (hst : st.Inv) : st'.Inv := by
  cases h with
  | blank => exact hst
  | org v hv => exact { hst with dpRange := hv.le }
  | db v hdp => exact { hst.put st.dp (v := v) (w := .data) (by simp) with dpRange := hdp }
  | instr i hip => exact { hst.put st.ip (v := encode i) (w := .instruction) (fun _ => ⟨i, rfl⟩) with ipRange := hip }

theorem validLines_keep_inv {lines : List (List Char)} {st st' : AsmState} (h : ValidLines lines st st') (hst : st.Inv) :
    st'.Inv := by
  induction lines generalizing st with
  | nil => rwa [(validLines_nil st st').1 h]
  | cons line rest ih =>
    obtain ⟨u, hline, hrest⟩ := (validLines_cons line rest st st').1 h
    exact ih hrest ((lineEffect_of_asmLine hline).keeps_inv hst)

theorem assembleState_inv {src : List Char} {st : AsmState} (h : assembleState src = .ok st) : st.Inv :=
  validLines_keep_inv ((asmLines_ok_iff 1 _ _ _).1 h) AsmState.initial_inv

/-! ### The whole image -/

/-- An encoding has a legal opcode, and operand 0 where the opcode is SAI's or PAR's (R48, R66). -/
theorem encode_opcode_mem (i : Instr) : (encode i).toNat / 16 ∈ [0x0, 0x1, 0x2, 0xE, 0xF] ∧
    (0xE ≤ (encode i).toNat / 16 → (encode i).toNat % 16 = 0) := by
  rw [← opcodeOf_toNat, ← operandOf_toNat, opcodeOf_encode, operandOf_encode]
  cases i <;> simp [opcodeFor, operandFor]

/-- Settles O49: the invariant holds of the last line's state, and each encoding is a legal byte. -/
theorem assembledImagesAreWellFormed : Obligations.AssembledImagesAreWellFormed := by
  intro src img h
  obtain ⟨st, hst, rfl⟩ := assemble_ok_iff.1 h
  have hinv := assembleState_inv hst
  refine ⟨st, hst, rfl, by simp, hinv.ipRange, hinv.dpRange, fun i hi => ⟨by omega, fun hw => ?_⟩⟩
  obtain ⟨ins, hins⟩ := hinv.encoded i hi hw
  rw [hins]
  exact encode_opcode_mem ins

/-- Lines without a statement leave the assembler's state as it is. -/
theorem asmLines_of_blank {lines : List (List Char)} (h : ∀ line ∈ lines, lineTokens line = []) (n : Nat) (st : AsmState) :
    asmLines n lines st = .ok st := by
  induction lines generalizing n with
  | nil => rfl
  | cons line rest ih =>
    obtain ⟨hline, hrest⟩ := List.forall_mem_cons.1 h
    simp only [asmLines, asmLine, hline, asmTokens, ih hrest]

/-- Settles O50: the invariant says so of every byte that no line wrote, and lines without a statement leave the initial
image, all zeros. -/
theorem unwrittenImageBytesAreZero : Obligations.UnwrittenImageBytesAreZero := by
  refine ⟨fun src st h => ⟨assemble_ok_iff.2 ⟨st, h, rfl⟩, (assembleState_inv h).unwritten⟩, fun src h => ?_⟩
  exact assemble_ok_iff.2 ⟨_, asmLines_of_blank h 1 AsmState.initial, rfl⟩

end Sys2Proof.Machine
